-- ==== Sys2Proof/Word.lean ====
section
/-! DEFINITION. The bit vectors of the machine: registers and memory hold bytes, addresses and instructions are 16-bit
words (spec 10_state R21, R24, R25; 30_encoding R90). -/

namespace Sys2Proof

/-- A byte: a general register, a timer, a memory byte, a screen byte (R20, R21, R27, R28). -/
abbrev Byte := BitVec 8

/-- A 16-bit word: `I`, `PC`, a stack entry, an instruction word (R24, R25, R26, R90). -/
abbrev Word := BitVec 16

/-- A 4-bit register number `x` or `y` (R92). -/
abbrev RegNum := BitVec 4

/-- The flag register VF is `V[15]` (R23). -/
abbrev regVF : RegNum := 15#4

/-- V0, the register `Bnnn` adds to its target (R21, R174). -/
abbrev regV0 : RegNum := 0#4

end Sys2Proof
end

