-- ==== Sys2Proof/Syntax.lean ====
section
/-! DEFINITION. The 34 instructions of the opcode table (spec 30_encoding R96), one constructor per row.
Operands are the encoded fields at their encoded widths (R92, R93): `x`, `y` register numbers, `kk` an 8-bit immediate,
`nnn` a 12-bit address, `n` a 4-bit row count. -/

namespace Sys2Proof

/-- The instructions, in the order of R96. -/
inductive Instr where
  /-- `00E0` CLS (R233). -/
  | cls
  /-- `00EE` RET (R171). -/
  | ret
  /-- `1nnn` JP nnn (R172). -/
  | jp (nnn : BitVec 12)
  /-- `2nnn` CALL nnn (R173). -/
  | call (nnn : BitVec 12)
  /-- `3xkk` SE Vx, kk (R176). -/
  | seImm (x : RegNum) (kk : Byte)
  /-- `4xkk` SNE Vx, kk (R177). -/
  | sneImm (x : RegNum) (kk : Byte)
  /-- `5xy0` SE Vx, Vy (R178). -/
  | seReg (x y : RegNum)
  /-- `6xkk` LD Vx, kk (R192). -/
  | ldImm (x : RegNum) (kk : Byte)
  /-- `7xkk` ADD Vx, kk (R193). -/
  | addImm (x : RegNum) (kk : Byte)
  /-- `8xy0` LD Vx, Vy (R194). -/
  | ldReg (x y : RegNum)
  /-- `8xy1` OR Vx, Vy (R195). -/
  | orReg (x y : RegNum)
  /-- `8xy2` AND Vx, Vy (R196). -/
  | andReg (x y : RegNum)
  /-- `8xy3` XOR Vx, Vy (R197). -/
  | xorReg (x y : RegNum)
  /-- `8xy4` ADD Vx, Vy (R198). -/
  | addReg (x y : RegNum)
  /-- `8xy5` SUB Vx, Vy (R199). -/
  | subReg (x y : RegNum)
  /-- `8xy6` SHR Vx, Vy (R200). -/
  | shr (x y : RegNum)
  /-- `8xy7` SUBN Vx, Vy (R201). -/
  | subn (x y : RegNum)
  /-- `8xyE` SHL Vx, Vy (R202). -/
  | shl (x y : RegNum)
  /-- `9xy0` SNE Vx, Vy (R179). -/
  | sneReg (x y : RegNum)
  /-- `Annn` LD I, nnn (R211). -/
  | ldI (nnn : BitVec 12)
  /-- `Bnnn` JP V0, nnn (R174). -/
  | jpV0 (nnn : BitVec 12)
  /-- `Cxkk` RND Vx, kk (R203). -/
  | rnd (x : RegNum) (kk : Byte)
  /-- `Dxyn` DRW Vx, Vy, n (R234 to R237). -/
  | drw (x y : RegNum) (n : BitVec 4)
  /-- `Ex9E` SKP Vx (R261). -/
  | skp (x : RegNum)
  /-- `ExA1` SKNP Vx (R262). -/
  | sknp (x : RegNum)
  /-- `Fx07` LD Vx, DT (R263). -/
  | ldVxDt (x : RegNum)
  /-- `Fx0A` LD Vx, K (R264). -/
  | ldVxK (x : RegNum)
  /-- `Fx15` LD DT, Vx (R265). -/
  | ldDtVx (x : RegNum)
  /-- `Fx18` LD ST, Vx (R266). -/
  | ldStVx (x : RegNum)
  /-- `Fx1E` ADD I, Vx (R212). -/
  | addI (x : RegNum)
  /-- `Fx29` LD F, Vx (R213). -/
  | ldF (x : RegNum)
  /-- `Fx33` LD B, Vx (R214). -/
  | ldB (x : RegNum)
  /-- `Fx55` LD [I], Vx (R215). -/
  | storeRegs (x : RegNum)
  /-- `Fx65` LD Vx, [I] (R216). -/
  | loadRegs (x : RegNum)
  deriving DecidableEq, Repr

end Sys2Proof
end

