-- ==== Sys2Proof/WellFormed.lean ====
section
/-! DEFINITION. What the machine accepts as a word, an image and a configuration.

An `Instr` is well-formed by its types: every register number is 4 bits and names one of the sixteen registers (R190, R283),
every immediate has its encoded width (R93), so no ill-formed `Instr` can be written down. What can be ill-formed is
a word (R94, R95), a ROM image (R151), the Scheduler's parameters (R121), a snap frequency (R122) and the size of a Sink that is
rendered into (R244): each has its check here. -/

namespace Sys2Proof

/-- One row of the opcode table: a word belongs to it when its bits under `mask` are `pattern` (R94). -/
structure OpcodeRow where
  mnemonic : String
  pattern : Word
  mask : Word
  deriving DecidableEq, Repr

/-- Rows 0 to 6 of R96, with spec/opcode_table.json's mnemonics. -/
def opcodeRowsFlow : List OpcodeRow :=
  [ ⟨"CLS", 0x00E0, 0xFFFF⟩, ⟨"RET", 0x00EE, 0xFFFF⟩, ⟨"JP_nnn", 0x1000, 0xF000⟩, ⟨"CALL_nnn", 0x2000, 0xF000⟩,
    ⟨"SE_Vx__kk", 0x3000, 0xF000⟩, ⟨"SNE_Vx__kk", 0x4000, 0xF000⟩, ⟨"SE_Vx__Vy", 0x5000, 0xF00F⟩ ]

/-- The register and ALU rows of R96, `6xkk` to `9xy0` (R97 for the low nibbles of `8xy-`). -/
def opcodeRowsAlu : List OpcodeRow :=
  [ ⟨"LD_Vx__kk", 0x6000, 0xF000⟩, ⟨"ADD_Vx__kk", 0x7000, 0xF000⟩, ⟨"LD_Vx__Vy", 0x8000, 0xF00F⟩,
    ⟨"OR_Vx__Vy", 0x8001, 0xF00F⟩, ⟨"AND_Vx__Vy", 0x8002, 0xF00F⟩, ⟨"XOR_Vx__Vy", 0x8003, 0xF00F⟩,
    ⟨"ADD_Vx__Vy", 0x8004, 0xF00F⟩, ⟨"SUB_Vx__Vy", 0x8005, 0xF00F⟩, ⟨"SHR_Vx__Vy", 0x8006, 0xF00F⟩,
    ⟨"SUBN_Vx__Vy", 0x8007, 0xF00F⟩, ⟨"SHL_Vx__Vy", 0x800E, 0xF00F⟩, ⟨"SNE_Vx__Vy", 0x9000, 0xF00F⟩ ]

/-- The rows `Annn` to `ExA1` of R96. -/
def opcodeRowsIndex : List OpcodeRow :=
  [ ⟨"LD_I__nnn", 0xA000, 0xF000⟩, ⟨"JP_V0__nnn", 0xB000, 0xF000⟩, ⟨"RND_Vx__kk", 0xC000, 0xF000⟩,
    ⟨"DRW_Vx__Vy__n", 0xD000, 0xF000⟩, ⟨"SKP_Vx", 0xE09E, 0xF0FF⟩, ⟨"SKNP_Vx", 0xE0A1, 0xF0FF⟩ ]

/-- The rows `Fx07` to `Fx65` of R96. -/
def opcodeRowsMisc : List OpcodeRow :=
  [ ⟨"LD_Vx__DT", 0xF007, 0xF0FF⟩, ⟨"LD_Vx__K", 0xF00A, 0xF0FF⟩, ⟨"LD_DT__Vx", 0xF015, 0xF0FF⟩,
    ⟨"LD_ST__Vx", 0xF018, 0xF0FF⟩, ⟨"ADD_I__Vx", 0xF01E, 0xF0FF⟩, ⟨"LD_F__Vx", 0xF029, 0xF0FF⟩,
    ⟨"LD_B__Vx", 0xF033, 0xF0FF⟩, ⟨"LD__I___Vx", 0xF055, 0xF0FF⟩, ⟨"LD_Vx___I", 0xF065, 0xF0FF⟩ ]

/-- The 34 rows of R96 in the spec's order. -/
def opcodeRows : List OpcodeRow := opcodeRowsFlow ++ opcodeRowsAlu ++ opcodeRowsIndex ++ opcodeRowsMisc

/-- `w` selects `row` (R94: `(w and mask) = match`). -/
def OpcodeRow.selects (row : OpcodeRow) (w : Word) : Bool := (w &&& row.mask) = row.pattern

/-- A word is an instruction word when some row selects it; every other word is illegal (R94, R99). -/
def wordWellFormed (w : Word) : Bool := opcodeRows.any fun row => row.selects w

/-- Every instruction is well-formed: its operand types admit exactly the values its encoding admits (R92, R93, R283). -/
def Instr.wellFormed (_ : Instr) : Bool := true

/-- A ROM image holds at most 3584 bytes (R150, R151; the spec's decision D32 makes a longer one refused). -/
def romWellFormed (rom : List Byte) : Bool := rom.length ≤ 3584

/-- The constraints on the Scheduler's parameters (R36, R121). -/
def schedulerParamsWellFormed (tickPerStep stepMultiplicity stepMaximum : Nat) : Bool :=
  1 ≤ tickPerStep && 1 ≤ stepMultiplicity && stepMultiplicity < stepMaximum

/-- A snap frequency is a positive number of hertz (R122, D27). -/
def snapFrequencyWellFormed (hz : Nat) : Bool := 1 ≤ hz

/-- The Sink must be at least 64 by 32 to be rendered into (R244, D29). -/
def renderSizeWellFormed (width height : Nat) : Bool := 64 ≤ width && 32 ≤ height

end Sys2Proof
end

