-- ==== Sys2Proof/Decode.lean ====
section
/-! DEFINITION. Decoding words and bytes, and encoding instructions (spec 30_encoding).
Fields are pulled out once (R92); every digit written in a pattern of R96 is compared and nothing else (R95, D10). -/

namespace Sys2Proof

/-- The major opcode `w[15:12]` (R92). -/
def fieldOp (w : Word) : BitVec 4 := w.extractLsb' 12 4
/-- The register number `x = w[11:8]` (R92). -/
def fieldX (w : Word) : RegNum := w.extractLsb' 8 4
/-- The register number `y = w[7:4]` (R92). -/
def fieldY (w : Word) : RegNum := w.extractLsb' 4 4
/-- `n = w[3:0]`: a row count, or a minor opcode in format XY (R92). -/
def fieldN (w : Word) : BitVec 4 := w.extractLsb' 0 4
/-- `kk = w[7:0]`: an immediate, or a minor opcode in format X (R92). -/
def fieldKK (w : Word) : Byte := w.extractLsb' 0 8
/-- `nnn = w[11:0]`, a 12-bit address (R92). -/
def fieldNNN (w : Word) : BitVec 12 := w.extractLsb' 0 12

/-- Major opcode 0: only `00E0` and `00EE` are instructions (R95, C1). -/
def decodeOp0 (w : Word) : Option Instr :=
  if w = 0x00E0#16 then some .cls else if w = 0x00EE#16 then some .ret else none

/-- Major opcode 8: the minor opcode is the low nibble (R97, D11). -/
def decodeOp8 (x y : RegNum) (n : BitVec 4) : Option Instr :=
  match n.toNat with
  | 0x0 => some (.ldReg x y)
  | 0x1 => some (.orReg x y)
  | 0x2 => some (.andReg x y)
  | 0x3 => some (.xorReg x y)
  | 0x4 => some (.addReg x y)
  | 0x5 => some (.subReg x y)
  | 0x6 => some (.shr x y)
  | 0x7 => some (.subn x y)
  | 0xE => some (.shl x y)
  | _ => none

/-- Major opcode E: the minor opcode is the low byte (R95, R96). -/
def decodeOpE (x : RegNum) (kk : Byte) : Option Instr :=
  if kk = 0x9E#8 then some (.skp x) else if kk = 0xA1#8 then some (.sknp x) else none

/-- Major opcode F: the minor opcode is the low byte (R95, R96). -/
def decodeOpF (x : RegNum) (kk : Byte) : Option Instr :=
  if kk = 0x07#8 then some (.ldVxDt x)
  else if kk = 0x0A#8 then some (.ldVxK x)
  else if kk = 0x15#8 then some (.ldDtVx x)
  else if kk = 0x18#8 then some (.ldStVx x)
  else if kk = 0x1E#8 then some (.addI x)
  else if kk = 0x29#8 then some (.ldF x)
  else if kk = 0x33#8 then some (.ldB x)
  else if kk = 0x55#8 then some (.storeRegs x)
  else if kk = 0x65#8 then some (.loadRegs x)
  else none

/-- Decoding one word, total on the 65536 words: `none` is an unmatched word (R94, R99). -/
def decodeWord (w : Word) : Option Instr :=
  match (fieldOp w).toNat with
  | 0x0 => decodeOp0 w
  | 0x1 => some (.jp (fieldNNN w))
  | 0x2 => some (.call (fieldNNN w))
  | 0x3 => some (.seImm (fieldX w) (fieldKK w))
  | 0x4 => some (.sneImm (fieldX w) (fieldKK w))
  | 0x5 => if fieldN w = 0#4 then some (.seReg (fieldX w) (fieldY w)) else none
  | 0x6 => some (.ldImm (fieldX w) (fieldKK w))
  | 0x7 => some (.addImm (fieldX w) (fieldKK w))
  | 0x8 => decodeOp8 (fieldX w) (fieldY w) (fieldN w)
  | 0x9 => if fieldN w = 0#4 then some (.sneReg (fieldX w) (fieldY w)) else none
  | 0xA => some (.ldI (fieldNNN w))
  | 0xB => some (.jpV0 (fieldNNN w))
  | 0xC => some (.rnd (fieldX w) (fieldKK w))
  | 0xD => some (.drw (fieldX w) (fieldY w) (fieldN w))
  | 0xE => decodeOpE (fieldX w) (fieldKK w)
  | _ => decodeOpF (fieldX w) (fieldKK w)

/-- The word at two bytes: the byte at the lower address is the high byte (R62, R63). -/
def wordOfBytes (hi lo : Byte) : Word := hi ++ lo
/-- The high byte of a word, stored at the lower address (R62). -/
def highByte (w : Word) : Byte := w.extractLsb' 8 8
/-- The low byte of a word, stored at the higher address (R62). -/
def lowByte (w : Word) : Byte := w.extractLsb' 0 8

/-- Why bytes do not decode. -/
inductive DecodeError where
  /-- Fewer than two bytes are left: an instruction is always two bytes (R90). -/
  | truncated
  /-- The word matches no row of R96 (R94, R99). -/
  | unknownInstruction (w : Word)
  deriving DecidableEq, Repr

/-- Decoding the first instruction of a byte sequence and what follows it (R90: exactly two bytes, high byte first). -/
def decode : List Byte → Except DecodeError (Instr × List Byte)
  | hi :: lo :: rest =>
    match decodeWord (wordOfBytes hi lo) with
    | some i => .ok (i, rest)
    | none => .error (.unknownInstruction (wordOfBytes hi lo))
  | _ => .error .truncated

/-- Format NNN: major opcode and a 12-bit address (R91). -/
def encNNN (op : BitVec 4) (nnn : BitVec 12) : Word := op ++ nnn
/-- Format XKK: major opcode, register, immediate (R91). Format X is the same with a minor opcode for `kk`. -/
def encXKK (op x : BitVec 4) (kk : Byte) : Word := op ++ x ++ kk
/-- Formats XY and XYN: major opcode, two registers, low nibble (R91). -/
def encXYN (op x y n : BitVec 4) : Word := op ++ x ++ y ++ n

/-- The word of an instruction: the row's match value with the fields in their positions (R96, R101). -/
def encode : Instr → Word
  | .cls => 0x00E0#16
  | .ret => 0x00EE#16
  | .jp nnn => encNNN 0x1#4 nnn
  | .call nnn => encNNN 0x2#4 nnn
  | .seImm x kk => encXKK 0x3#4 x kk
  | .sneImm x kk => encXKK 0x4#4 x kk
  | .seReg x y => encXYN 0x5#4 x y 0x0#4
  | .ldImm x kk => encXKK 0x6#4 x kk
  | .addImm x kk => encXKK 0x7#4 x kk
  | .ldReg x y => encXYN 0x8#4 x y 0x0#4
  | .orReg x y => encXYN 0x8#4 x y 0x1#4
  | .andReg x y => encXYN 0x8#4 x y 0x2#4
  | .xorReg x y => encXYN 0x8#4 x y 0x3#4
  | .addReg x y => encXYN 0x8#4 x y 0x4#4
  | .subReg x y => encXYN 0x8#4 x y 0x5#4
  | .shr x y => encXYN 0x8#4 x y 0x6#4
  | .subn x y => encXYN 0x8#4 x y 0x7#4
  | .shl x y => encXYN 0x8#4 x y 0xE#4
  | .sneReg x y => encXYN 0x9#4 x y 0x0#4
  | .ldI nnn => encNNN 0xA#4 nnn
  | .jpV0 nnn => encNNN 0xB#4 nnn
  | .rnd x kk => encXKK 0xC#4 x kk
  | .drw x y n => encXYN 0xD#4 x y n
  | .skp x => encXKK 0xE#4 x 0x9E#8
  | .sknp x => encXKK 0xE#4 x 0xA1#8
  | .ldVxDt x => encXKK 0xF#4 x 0x07#8
  | .ldVxK x => encXKK 0xF#4 x 0x0A#8
  | .ldDtVx x => encXKK 0xF#4 x 0x15#8
  | .ldStVx x => encXKK 0xF#4 x 0x18#8
  | .addI x => encXKK 0xF#4 x 0x1E#8
  | .ldF x => encXKK 0xF#4 x 0x29#8
  | .ldB x => encXKK 0xF#4 x 0x33#8
  | .storeRegs x => encXKK 0xF#4 x 0x55#8
  | .loadRegs x => encXKK 0xF#4 x 0x65#8

/-- The two bytes of an instruction as they stand in memory (R62, R103). -/
def encodeBytes (i : Instr) : List Byte := [highByte (encode i), lowByte (encode i)]

/-- The mnemonic of an instruction's row in spec/opcode_table.json (R96, R101; names only). -/
def Instr.mnemonic : Instr → String
  | .cls => "CLS"
  | .ret => "RET"
  | .jp _ => "JP_nnn"
  | .call _ => "CALL_nnn"
  | .seImm _ _ => "SE_Vx__kk"
  | .sneImm _ _ => "SNE_Vx__kk"
  | .seReg _ _ => "SE_Vx__Vy"
  | .ldImm _ _ => "LD_Vx__kk"
  | .addImm _ _ => "ADD_Vx__kk"
  | .ldReg _ _ => "LD_Vx__Vy"
  | .orReg _ _ => "OR_Vx__Vy"
  | .andReg _ _ => "AND_Vx__Vy"
  | .xorReg _ _ => "XOR_Vx__Vy"
  | .addReg _ _ => "ADD_Vx__Vy"
  | .subReg _ _ => "SUB_Vx__Vy"
  | .shr _ _ => "SHR_Vx__Vy"
  | .subn _ _ => "SUBN_Vx__Vy"
  | .shl _ _ => "SHL_Vx__Vy"
  | .sneReg _ _ => "SNE_Vx__Vy"
  | .ldI _ => "LD_I__nnn"
  | .jpV0 _ => "JP_V0__nnn"
  | .rnd _ _ => "RND_Vx__kk"
  | .drw _ _ _ => "DRW_Vx__Vy__n"
  | .skp _ => "SKP_Vx"
  | .sknp _ => "SKNP_Vx"
  | .ldVxDt _ => "LD_Vx__DT"
  | .ldVxK _ => "LD_Vx__K"
  | .ldDtVx _ => "LD_DT__Vx"
  | .ldStVx _ => "LD_ST__Vx"
  | .addI _ => "ADD_I__Vx"
  | .ldF _ => "LD_F__Vx"
  | .ldB _ => "LD_B__Vx"
  | .storeRegs _ => "LD__I___Vx"
  | .loadRegs _ => "LD_Vx___I"

/-- The word the opcode table numbers as `w`: bit 0 is the least significant bit of the (single) instruction word, and
bits at or above `nbits` are 0. -/
def tableWord (nbits w : Nat) : Word := BitVec.ofNat 16 (w % 2 ^ nbits)

/-- What the decoder reads from the table's word `w` laid out in memory, high byte first (R62, R90). -/
def decodeTableWord (nbits w : Nat) : Option Instr :=
  match decode [highByte (tableWord nbits w), lowByte (tableWord nbits w)] with
  | .ok (i, _) => some i
  | .error _ => none

end Sys2Proof
end

