-- ==== Sys2Proof/Config.lean ====
section
/-! DEFINITION. What one installation of the block fixes, and the free values (spec 00_scope R10, 10_state R32).
The source names every one of these and gives no value (U29, D3, D12, D16, D23, D24, D27, D30), so each is a constant without
a body: nothing can be proved about its value beyond what its type says (of `STEP_MAX` and `FONT`, built from such constants: beyond the
one constraint the spec puts on each). -/

namespace Sys2Proof.Config

/-- `IPS`, instructions per second, a non-negative rational (R10, D3). -/
opaque ips : NNRat
/-- `SPEED`, the speed multiplier, a non-negative rational (R10, D3). -/
opaque speed : NNRat
/-- `TIMER_HZ`, the rate of DT and ST, a non-negative rational (R10, D3). -/
opaque timerHz : NNRat
/-- `DELTA`, the fixed step duration in seconds the driver passes to every `step` (R10, R330, D34). -/
opaque delta : NNRat

/-- `TICKS_PER_SECOND`, a positive integer (R10, R301, D27). -/
opaque ticksPerSecond : PNat
/-- `TICK_PER_STEP`, a positive integer (R10, R121, D24). -/
opaque tickPerStep : PNat
/-- `STEP_MULT`, a positive integer (R10, R121, D24). -/
opaque stepMult : PNat
/-- How far `STEP_MAX` lies above `STEP_MULT`: a positive integer, since `STEP_MAX > STEP_MULT` (R36, R121). -/
opaque stepMaxExcess : PNat
/-- `STEP_MAX` (R10, R121). -/
def stepMax : Nat := stepMult + stepMaxExcess
/-- `SNAP_TOL`, a non-negative rational (R10, R126, D27). -/
opaque snapTol : NNRat
/-- `SNAP_CAP`, the capacity of the snap table (R10, R39, D27). -/
opaque snapCap : Nat
/-- `TW`, the width in bits of a tick value, a positive integer (R10, R138, D24). -/
opaque tickWidth : PNat

/-- `FONT` before its one constraint (D23); read through `font` only. -/
opaque fontRaw : Nat → Byte
/-- The row of glyph 0 that is sure to have a set bit (D23). -/
opaque glyph0Row : Fin 5
/-- The place of that bit in its row (D23). -/
opaque glyph0Bit : Fin 8
/-- `FONT`: the built-in font table, byte `a` for `a` in [0, 80); no other index is ever asked for (R10, R20). Glyph 0, bytes 0 to 4,
has a set bit, D23's constraint; every table that obeys it, and no other, is a value of this function. -/
def font (a : Nat) : Byte := if a = glyph0Row then fontRaw a ||| BitVec.twoPow 8 glyph0Bit else fontRaw a
/-- `SHIFT_SRC_VY`: whether `8xy6` and `8xyE` shift `V[y]` (true) or `V[x]` (false) (R10, R200, D12). -/
opaque shiftSrcVy : Bool

/-- FREE VALUE: the random byte drawn by the `k`-th draw of a run (R203, U3, D16). -/
opaque randomByte : Nat → Byte
/-- FREE VALUE: channel `c` of pixel `j` after the reallocation that took draw number `k` (R240, U11, D30). -/
opaque freePixelByte : Nat → Nat → Nat → Byte

/-- The conventional font, offered by the spec as a default of `FONT` from general knowledge (R65, G2). The model never uses it; it
is here for tests and for whoever wants to suppose it. -/
def conventionalFont : List Byte :=
  [ 0xF0, 0x90, 0x90, 0x90, 0xF0, 0x20, 0x60, 0x20, 0x20, 0x70, 0xF0, 0x10, 0xF0, 0x80, 0xF0, 0xF0, 0x10, 0xF0, 0x10, 0xF0 ] ++
  [ 0x90, 0x90, 0xF0, 0x10, 0x10, 0xF0, 0x80, 0xF0, 0x10, 0xF0, 0xF0, 0x80, 0xF0, 0x90, 0xF0, 0xF0, 0x10, 0x20, 0x40, 0x40 ] ++
  [ 0xF0, 0x90, 0xF0, 0x90, 0xF0, 0xF0, 0x90, 0xF0, 0x10, 0xF0, 0xF0, 0x90, 0xF0, 0x90, 0x90, 0xE0, 0x90, 0xE0, 0x90, 0xE0 ] ++
  [ 0xF0, 0x80, 0x80, 0x80, 0xF0, 0xE0, 0x90, 0x90, 0x90, 0xE0, 0xF0, 0x80, 0xF0, 0x80, 0xF0, 0xF0, 0x80, 0xF0, 0x80, 0x80 ]

end Sys2Proof.Config
end

