-- ==== Sys2Proof/Machine/State.lean ====
section
/-! DEFINITION. The state of the three units as plain data (spec 10_state), why an operation can stop, and the state at reset. -/

namespace Sys2Proof.Machine

/-- The seven faults of the sticky enumeration (R281). A fault is raised INTO the state (R284, R293: `raise` writes one field and
the slot ends), so the step that raises one answers a next state whose `fault` field holds it; no step and no operation of
the model answers `Host.Outcome.fault` (log 7). -/
inductive Fault where
  /-- Raised by the fetch check, by `2nnn`'s target check and by `Dxyn`, `Fx33`, `Fx55`, `Fx65` on an illegal address (R282).
  For a data access the check is the spec's decision D18: safe, the original may go on where the model faults (log 8). -/
  | memoryOutOfBounds
  /-- Raised by nothing: a register number is a 4-bit field (R283). Safe: it cannot occur. -/
  | registerOutOfBounds
  /-- Raised by `00EE` with `SP = 0` (R286). Safe: the source states it. -/
  | stackUnderflow
  /-- Raised by `2nnn` with `SP = 16` (R287). Safe: the source states it. -/
  | stackOverflow
  /-- Raised by the decoder's unmatched words (R288). Safe: the source states it; which words are unmatched is D10, D11 (log 10). -/
  | unknownInstruction
  /-- Raised by `Ex9E`, `ExA1` with `V[x] > 15` (R289; the pairing of check and name is D39, log 16). Safe. -/
  | unknownKey
  /-- Raised by `Dxyn` with coordinates off the screen (R290; the pairing is D39, log 16). Safe. -/
  | invalidDrawCoordinates
  deriving DecidableEq, Repr

/-- Why an operation has no meaning. None of these is answered by an instruction or by a slot. -/
inductive Refusal where
  /-- An instruction that has no meaning in the model; no arm of `exec` answers it any more. Safe. -/
  | notModelled (mnemonic : String)
  /-- `create` with a ROM over 3584 bytes (R151, D32). Safe: the spec gives the call no meaning. -/
  | romTooLong
  /-- `register_snap_frequency` on a full table (R122, D27). Safe: the source's assertion failure. -/
  | snapTableFull
  /-- `register_snap_frequency` with `hz = 0` (R122, D27). Safe: the spec gives the call no meaning. -/
  | snapFrequencyZero
  /-- `advance` with a sample, parameters or periods that break the premises of R138 for `TW` bits (D24, U15; log 18). Safe: the spec
  gives such a run no meaning. -/
  | tickWidthExceeded
  /-- `render_chip8` into a Sink below 64 by 32 (R244, D29). Safe: outside the driver's contract. -/
  | sinkTooSmall
  /-- A driver operation while a `step` call is in progress (R153, R325: operations never overlap). Safe. -/
  | operationInProgress
  deriving DecidableEq, Repr

/-- Memory: (address, byte) pairs in canonical form, addresses strictly rising, no entry equal to what an unlisted address reads
as (`Memory.wf` in Machine/Ops.lean). -/
abbrev Memory := List Host.Cell

/-- A `step` call in progress: its local values, which the spec holds outside the VM's state (R155) and which stand here because
the model's step relation is the slot (R8; log 1). -/
structure StepCall where
  /-- How many of the call's `instruction_count` slots are still to run (R154, R157). -/
  slotsLeft : Nat
  /-- `timer_decrement_per_instruction`, the timer time of each slot (R155). -/
  tdpi : Rat
  deriving DecidableEq, Repr

/-- The Fixed-Timestep Scheduler's state (R35 to R41). -/
structure Scheduler where
  /-- `last_time`; 0 is the sentinel "needs rebaseline" (R35). -/
  lastTime : Nat
  /-- `tick_per_step`, a parameter no operation writes (R36). -/
  tickPerStep : Nat
  /-- `step_multiplicity`, a parameter no operation writes (R36). -/
  stepMultiplicity : Nat
  /-- `step_maximum`, a parameter no operation writes (R36). -/
  stepMaximum : Nat
  /-- `accumulator`, ticks not yet converted to a step (R37). -/
  accumulator : Nat
  /-- `residual`, a numerator over 4 (R38). -/
  residual : Nat
  /-- `snap_table`, periods in registration order (R39). -/
  snapTable : List Nat
  /-- `history`, the last four raw deltas (R40). -/
  history : Vector Nat 4
  /-- `cursor`, the entry the next `advance` overwrites (R40). -/
  cursor : Fin 4
  deriving DecidableEq, Repr

/-- One RGBA pixel, four bytes in the order R, G, B, A (R42, D28). -/
structure Pixel where
  r : Byte
  g : Byte
  b : Byte
  a : Byte
  deriving DecidableEq, Repr

/-- The Framebuffer Sink (R42): `pixels` in row-major order, row 0 at the bottom. -/
structure Sink where
  width : Nat
  height : Nat
  pixels : List Pixel
  deriving DecidableEq, Repr

/-- The whole block: the VM's fields (R20 to R31), the `step` call in progress, the Scheduler, the Sink, and the model's own
counter of free values. -/
structure State where
  /-- `memory` (R20). -/
  mem : Memory
  /-- `V[0]` to `V[15]` (R21). -/
  v : Vector Byte 16
  /-- `I` (R24). -/
  i : Word
  /-- `PC` (R25); inside `exec` it already holds the next sequential address. -/
  pc : Word
  /-- `SP`, the number of stack entries in use, 0 to 16 (R26, D38). -/
  sp : Fin 17
  /-- `stack[0]` to `stack[15]` (R26). -/
  stack : Vector Word 16
  /-- `DT`, the delay timer (R27). -/
  dt : Byte
  /-- `ST`, the sound timer (R27). -/
  st : Byte
  /-- `screen[0]` to `screen[255]` (R28). -/
  screen : Vector Byte 256
  /-- `keys`: true is down (R29). -/
  keys : Vector Bool 16
  /-- `last_keys`: true is down (R29). -/
  lastKeys : Vector Bool 16
  /-- `fault`: `none` is the spec's `None` (R30). -/
  fault : Option Fault
  /-- `instr_accumulator` (R31). -/
  instrAcc : Rat
  /-- `timer_accumulator` (R31). -/
  timerAcc : Rat
  /-- The `step` call in progress, if any (R154, R155, R157). -/
  call : Option StepCall
  /-- The Scheduler (R35 to R41). -/
  sched : Scheduler
  /-- The Sink (R42, R43). -/
  sink : Sink
  /-- The model's own counter of free values taken (R203, R240; log 5). -/
  draws : Nat
  deriving DecidableEq, Repr

/-- The Scheduler at creation (R41, R121, D25): the state after `resync`, with an empty snap table. -/
def Scheduler.created (tickPerStep stepMultiplicity stepMaximum : Nat) : Scheduler where
  lastTime := 0
  tickPerStep := tickPerStep
  stepMultiplicity := stepMultiplicity
  stepMaximum := stepMaximum
  accumulator := 0
  residual := 0
  snapTable := []
  history := Vector.replicate 4 tickPerStep
  cursor := 0

/-- The Sink at creation: 0 by 0, no pixels (R43, D30). -/
def Sink.created : Sink where
  width := 0
  height := 0
  pixels := []

/-- The block with its three units freshly made: the VM as `create` of an empty ROM leaves it (R33, R321), the Scheduler (R41)
and the Sink (R43) at creation. -/
def State.reset : State where
  mem := []
  v := Vector.replicate 16 0
  i := 0
  pc := 512
  sp := 0
  stack := Vector.replicate 16 0
  dt := 0
  st := 0
  screen := Vector.replicate 256 0
  keys := Vector.replicate 16 false
  lastKeys := Vector.replicate 16 false
  fault := none
  instrAcc := 0
  timerAcc := 0
  call := none
  sched := Scheduler.created Config.tickPerStep Config.stepMult Config.stepMax
  sink := Sink.created
  draws := 0

end Sys2Proof.Machine
end

