-- ==== Sys2Proof/Machine/Ops.lean ====
section
/-! DEFINITION. The named operations over memory, registers, the screen, the keys and the timers; raising a fault; the parts of a
slot (spec 20_memory, 41_vm_step R158 to R162, 60_exceptions R284). -/

namespace Sys2Proof.Machine

/-! ### Memory -/

/-- A byte of the built-in font table (R20, R65). -/
def fontByte (a : Nat) : Byte := Config.font a

/-- What an address reads as that memory does not list: its value after `create` of an empty ROM (R20, R33). -/
def Memory.unlisted (a : Nat) : Byte := if a < 80 then fontByte a else 0

/-- The byte listed for an address, if one is. -/
def Memory.findByte : Memory → Nat → Option Byte
  | [], _ => none
  | c :: m, a => if c.1 = a then some c.2 else Memory.findByte m a

/-- `MemRead(a, 1)` (R14): the check of the address is the instruction's own, before the read. -/
def Memory.readByte (m : Memory) (a : Nat) : Byte := (m.findByte a).getD (Memory.unlisted a)

/-- List `b` at address `a`, in rising order, in the place of what was listed there. -/
def Memory.insertByte : Memory → Nat → Byte → Memory
  | [], a, b => [(a, b)]
  | c :: m, a, b =>
    if a < c.1 then (a, b) :: c :: m
    else if a = c.1 then (a, b) :: m
    else c :: Memory.insertByte m a b

/-- List nothing at address `a`. -/
def Memory.removeByte (m : Memory) (a : Nat) : Memory := m.filter fun c => c.1 != a

/-- `MemWrite(a, 1, b)` (R14, R71), keeping the canonical form. -/
def Memory.writeByte (m : Memory) (a : Nat) (b : Byte) : Memory :=
  if b = Memory.unlisted a then m.removeByte a else m.insertByte a b

/-- The canonical form: addresses below 4096 and strictly rising, no entry equal to what the address reads as unlisted. -/
def Memory.wf : Memory → Bool
  | [] => true
  | c :: m => c.1 < 4096 && c.2 != Memory.unlisted c.1 && (m.all fun d => c.1 < d.1) && Memory.wf m

/-- The `n` bytes from address `a` up, each address computed without wrap-around (R69). -/
def Memory.readBytes (m : Memory) (a : Nat) : Nat → List Byte
  | 0 => []
  | n + 1 => m.readByte a :: Memory.readBytes m (a + 1) n

/-- Store bytes from address `a` up, each address computed without wrap-around (R69). -/
def Memory.writeBytes (m : Memory) (a : Nat) : List Byte → Memory
  | [] => m
  | b :: bs => Memory.writeBytes (m.writeByte a b) (a + 1) bs

/-- The fetch read `MemRead(a, 2)`: big-endian (R62, R63). -/
def Memory.readWord (m : Memory) (a : Nat) : Word := wordOfBytes (m.readByte a) (m.readByte (a + 1))

/-- The single-byte region check shared by fetches and data reads (R66, R72). -/
def inRegion (a : Nat) : Bool := a < 80 || (512 ≤ a && a < 4096)

/-- `FetchLegal(a)` (R66). -/
def fetchLegal (a : Nat) : Bool := inRegion a && inRegion (a + 1)

/-- `ReadLegal(a, len)` (R67): every byte of the range is in the region; true for an empty range. -/
def readLegal (a : Nat) : Nat → Bool
  | 0 => true
  | n + 1 => inRegion a && readLegal (a + 1) n

/-- The single-byte check of a data write: the program region only (R64, R68). -/
def inProgramRegion (a : Nat) : Bool := 512 ≤ a && a < 4096

/-- `WriteLegal(a, len)` (R68). -/
def writeLegal (a : Nat) : Nat → Bool
  | 0 => true
  | n + 1 => inProgramRegion a && writeLegal (a + 1) n

/-! ### Registers -/

/-- `V[x]` (R14, R21). -/
def State.reg (s : State) (x : RegNum) : Byte := s.v[x.toNat]'x.isLt

/-- `V[x] <- b` (R14, R21). -/
def State.setReg (s : State) (x : RegNum) (b : Byte) : State := { s with v := s.v.set x.toNat b x.isLt }

/-- `I <- w` (R24). -/
def State.setI (s : State) (w : Word) : State := { s with i := w }

/-- `PC <- w` (R25). -/
def State.setPc (s : State) (w : Word) : State := { s with pc := w }

/-- `DT <- b` (R27). -/
def State.setDt (s : State) (b : Byte) : State := { s with dt := b }

/-- `ST <- b` (R27). -/
def State.setSt (s : State) (b : Byte) : State := { s with st := b }

/-- Replace the memory. -/
def State.setMem (s : State) (m : Memory) : State := { s with mem := m }

/-- Replace the screen bitmap. -/
def State.setScreen (s : State) (scr : Vector Byte 256) : State := { s with screen := scr }

/-- One more free value has been taken (log 5). -/
def State.countDraw (s : State) : State := { s with draws := s.draws + 1 }

/-- Replace the Scheduler. -/
def State.setSched (s : State) (c : Scheduler) : State := { s with sched := c }

/-- Replace the Sink. -/
def State.setSink (s : State) (k : Sink) : State := { s with sink := k }

/-- `keys[j] <- k[j]` for every j (R153). -/
def State.setKeys (s : State) (k : Vector Bool 16) : State := { s with keys := k }

/-- Replace the `step` call in progress. -/
def State.setCall (s : State) (c : Option StepCall) : State := { s with call := c }

/-- `instr_accumulator <- q` (R154). -/
def State.setInstrAcc (s : State) (q : Rat) : State := { s with instrAcc := q }

/-- `timer_accumulator <- q` (R158). -/
def State.setTimerAcc (s : State) (q : Rat) : State := { s with timerAcc := q }

/-- The draw of `rand()` that this state would make: a free value (R203, D16). -/
def State.randomByte (s : State) : Byte := Config.randomByte s.draws

/-! ### The return stack -/

/-- `stack[SP] <- w; SP <- SP + 1` for `SP < 16` (R26, R173, D7). -/
def State.push (s : State) (w : Word) (h : s.sp.val < 16) : State :=
  { s with stack := s.stack.set s.sp.val w h, sp := ⟨s.sp.val + 1, Nat.succ_lt_succ h⟩ }

/-- `SP <- SP - 1` (R26, R171, D7). The entry stays in place above the new `SP`. -/
def State.dropTop (s : State) : State :=
  { s with sp := ⟨s.sp.val - 1, Nat.lt_of_le_of_lt (Nat.sub_le _ _) s.sp.isLt⟩ }

/-- `stack[SP - 1]`, the most recent entry, for `SP > 0` (R26). -/
def State.top (s : State) (h : 0 < s.sp.val) : Word :=
  s.stack[s.sp.val - 1]'(by have := s.sp.isLt; omega)

/-! ### Faults -/

/-- `raise F` (R284, R293): one field is written; the rest of the instruction, of the slot and of the `step` is not performed,
because the callers end there and the slot loop tests the field. There is no saved state, no vector and no return (R294). -/
def State.raise (s : State) (f : Fault) : State := { s with fault := some f }

/-- The 3-bit code of a fault value, for a hardware field (R281, D6); nothing depends on it. -/
def faultCode : Option Fault → BitVec 3
  | none => 0
  | some .memoryOutOfBounds => 1
  | some .registerOutOfBounds => 2
  | some .stackUnderflow => 3
  | some .stackOverflow => 4
  | some .unknownInstruction => 5
  | some .unknownKey => 6
  | some .invalidDrawCoordinates => 7

/-! ### Keys -/

/-- Key `k` is down (R29). -/
def State.keyDown (s : State) (k : BitVec 4) : Bool := s.keys[k.toNat]'k.isLt

/-- Key `k` was down at the end of the last completed slot (R29, R162). -/
def State.lastKeyDown (s : State) (k : BitVec 4) : Bool := s.lastKeys[k.toNat]'k.isLt

/-- The key latch, `last_keys <- keys` (R162). -/
def State.latchKeys (s : State) : State := { s with lastKeys := s.keys }

/-! ### Timers

The accumulators are exact rationals (R156, D2). The sum is written out over numerators and denominators, which any evaluator
can compute; `Laws/Ops.lean` proves it equal to `+`. -/

/-- The exact sum of two rationals. -/
def exactSum (p q : Rat) : Rat := mkRat (p.num * q.den + q.num * p.den) (p.den * q.den)

/-- `floor(q)` of a non-negative rational (R13). -/
def wholePart (q : Rat) : Nat := (q.num / q.den).toNat

/-- `q - floor(q)` of a non-negative rational. -/
def fracPart (q : Rat) : Rat := exactSum q (-(wholePart q : Int) : Int)

/-- `t - min(t, d)`: a timer drops by `d`, never below 0 (R158). -/
def dropTimer (t : Byte) (d : Nat) : Byte := BitVec.ofNat 8 (t.toNat - d)

/-- How many timer ticks fall in a slot of `tdpi` (R158). -/
def State.ticksDue (s : State) (tdpi : Rat) : Nat := wholePart (exactSum s.timerAcc tdpi)

/-- Slot sub-step a, the timer tick (R158). -/
def State.timerTick (s : State) (tdpi : Rat) : State :=
  { s with
    timerAcc := fracPart (exactSum s.timerAcc tdpi)
    dt := dropTimer s.dt (s.ticksDue tdpi)
    st := dropTimer s.st (s.ticksDue tdpi) }

/-! ### The program counter -/

/-- `PC <- (PC + 2) mod 2^16`: the fetch increment (R160), and a taken skip (R175). -/
def State.advancePc (s : State) : State := s.setPc (s.pc + 2#16)

/-- `PC <- (PC - 2) mod 2^16`: back to this instruction's own address (R264). -/
def State.rewindPc (s : State) : State := s.setPc (s.pc - 2#16)

/-- A skip (R175): step over the next word when the condition holds. -/
def State.skipIf (s : State) (cond : Bool) : State := if cond then s.advancePc else s

/-- The instruction word at `PC` (R160). -/
def State.fetchWord (s : State) : Word := s.mem.readWord s.pc.toNat

/-! ### The `step` call -/

/-- After a slot: the call goes on with one slot less, and is over when no slot is left or a fault is set (R157, R284). -/
def State.countSlot (s : State) (c : StepCall) : State :=
  if s.fault.isSome || c.slotsLeft ≤ 1 then s.setCall none
  else s.setCall (some { c with slotsLeft := c.slotsLeft - 1 })

/-- `instr_accumulator` with this call's budget added (R154). -/
def State.budget (s : State) (ips speed delta : Rat) : Rat := s.instrAcc + ips * delta * speed

/-- `instruction_count` (R154). -/
def State.slotCount (s : State) (ips speed delta : Rat) : Nat := wholePart (s.budget ips speed delta)

/-- Steps 1 and 2 of `step`: the accumulator keeps the fraction (R154). -/
def State.takeBudget (s : State) (ips speed delta : Rat) : State :=
  s.setInstrAcc (fracPart (s.budget ips speed delta))

/-- `timer_decrement_per_instruction` (R155). -/
def tdpiOf (timerHz delta : Rat) (count : Nat) : Rat := timerHz * delta / count

/-- Steps 1 to 3 of `step(delta)` (R154, R155) and the first loop test (R157): the call is open when it has slots to run
and no fault is set (R163). -/
def State.beginCallWith (s : State) (ips speed timerHz delta : Rat) : State :=
  let count := s.slotCount ips speed delta
  let t := s.takeBudget ips speed delta
  if count = 0 || s.fault.isSome then t
  else t.setCall (some { slotsLeft := count, tdpi := tdpiOf timerHz delta count })

/-- The driver's next `step(DELTA)` call (R324, R330). -/
def State.beginCall (s : State) : State := s.beginCallWith Config.ips Config.speed Config.timerHz Config.delta

/-! ### Placing a word (for the host's `withFetchWord`) -/

/-- Where a word can be placed so that the next slot fetches it: at `PC` when both bytes lie in the program region, else at the
entry point 512 (log 24). -/
def State.placeAddr (s : State) : Word :=
  if inProgramRegion s.pc.toNat && inProgramRegion (s.pc.toNat + 1) then s.pc else 512#16

/-- The call in progress, or one of a single slot without timer time. -/
def State.openedCall (s : State) : StepCall := s.call.getD { slotsLeft := 1, tdpi := 0 }

/-- Store a word where the next slot fetches, with a call open and no fault set (log 2, log 24). -/
def State.placeWord (s : State) (w : Word) : State :=
  { s with
    mem := s.mem.writeBytes s.placeAddr.toNat [highByte w, lowByte w]
    pc := s.placeAddr
    fault := none
    call := some s.openedCall }

end Sys2Proof.Machine
end

