-- ==== Sys2Proof/Machine/Flags.lean ====
section
/-! DEFINITION. The values of VF as a flag (spec 10_state R23): always 0 or 1. -/

namespace Sys2Proof.Machine

/-- A flag value as a byte: 1 or 0 (R23). -/
def flagByte (c : Bool) : Byte := if c then 1 else 0

/-- `8xy4`: the carry out of bit 7 (R198). -/
def carryFlag (a b : Byte) : Byte := flagByte (a.toNat + b.toNat > 255)

/-- `8xy5` and `8xy7`: 1 when `a - b` needs no borrow (R199, R201; D15 for equal operands). -/
def notBorrowFlag (a b : Byte) : Byte := flagByte (a.toNat ≥ b.toNat)

/-- `8xy6`: bit 0 of the shifted operand (R200). -/
def shiftedOutLow (b : Byte) : Byte := flagByte (b.getLsbD 0)

/-- `8xyE`: bit 7 of the shifted operand (R202). -/
def shiftedOutHigh (b : Byte) : Byte := flagByte (b.getLsbD 7)

/-- `Dxyn`: two bytes have a 1 bit in common, so the XOR clears a set pixel (R235, R236). -/
def collides (screenByte part : Byte) : Bool := screenByte &&& part != 0

/-- Write a result and then the flag: VF is written last (R191, D13). -/
def State.setRegFlag (s : State) (x : RegNum) (result flag : Byte) : State := (s.setReg x result).setReg regVF flag

end Sys2Proof.Machine
end

