-- ==== Sys2Proof/Machine/Operands.lean ====
section
/-! DEFINITION. The operand forms: zero-extended immediates (R93), the shifted register (R200), the register ranges of `Fx55` and
`Fx65` (R215, R216), key numbers (R261), glyph addresses (R213), decimal digits (R214), sprites and screen bytes (R230 to R235). -/

namespace Sys2Proof.Machine

/-- `zext_16(nnn)` (R93). -/
def addrWord (nnn : BitVec 12) : Word := nnn.setWidth 16

/-- `zext_16` of a byte (R174, R212). -/
def byteWord (b : Byte) : Word := b.setWidth 16

/-- Whether the shifts read `V[y]` (R200, R202, D12): the open parameter. -/
def shiftReadsVy : Bool := Config.shiftSrcVy

/-- The register a shift reads, for a given value of `SHIFT_SRC_VY` (R200, R202). -/
def shiftSource (readsVy : Bool) (x y : RegNum) : RegNum := if readsVy then y else x

/-- The address `I` as a number; `I + j` is never reduced (R69). -/
def State.dataAddr (s : State) : Nat := s.i.toNat

/-- How many registers the range V0 to Vx holds (R215, R216). -/
def rangeCount (x : RegNum) : Nat := x.toNat + 1

/-- `V[0]` to `V[x]` in order (R215). -/
def State.regRange (s : State) (x : RegNum) : List Byte := s.v.toList.take (rangeCount x)

/-- Load `V[j] <- memory[I + j]` for the first `n` registers, ascending (R216). -/
def State.loadRange (s : State) (base : Nat) : Nat → State
  | 0 => s
  | n + 1 => (State.loadRange s base n).setReg (BitVec.ofNat 4 n) (s.mem.readByte (base + n))

/-- A register value is a key number (R261, R262). -/
def isKeyNumber (b : Byte) : Bool := b.toNat ≤ 15

/-- The key a register value names, once checked (R261). -/
def keyOfByte (b : Byte) : BitVec 4 := b.setWidth 4

/-- The keys in scanning order (R264, D21). -/
def keysAscending : List (BitVec 4) := [0, 1, 2, 3, 4, 5, 6, 7, 8, 9, 10, 11, 12, 13, 14, 15]

/-- Key `k` shows a release edge (R264). -/
def State.released (s : State) (k : BitVec 4) : Bool := s.lastKeyDown k && !s.keyDown k

/-- The lowest key with a release edge, if any (R264, D21). -/
def State.releasedKey (s : State) : Option (BitVec 4) := keysAscending.find? s.released

/-- The address of the glyph of a register value's low nibble: `5 * (b and 15)` (R213, D22). -/
def glyphAddr (b : Byte) : Word := BitVec.ofNat 16 (5 * (b.toNat % 16))

/-- The three decimal digits, hundreds first (R62, R214). -/
def decimalDigits (b : Byte) : List Byte :=
  [BitVec.ofNat 8 (b.toNat / 100), BitVec.ofNat 8 (b.toNat / 10 % 10), BitVec.ofNat 8 (b.toNat % 10)]

/-- The byte `byte_column * 32 + row` of the screen, both taken around the screen (R230, R235). -/
def screenIndex (col row : Nat) : Fin 256 := ⟨col % 8 * 32 + row % 32, by omega⟩

/-- Pixel (x, y) of a bitmap: bit `7 - x mod 8` of its byte (R231, R232). -/
def pixelOf (scr : Vector Byte 256) (x y : Nat) : Bool := (scr[screenIndex (x / 8) y]).getLsbD (7 - x % 8)

/-- The check of the draw coordinates and the row count (R234; `n > 32` cannot hold, C7). -/
def coordinatesInvalid (vx vy : Byte) (n : BitVec 4) : Bool := vx.toNat ≥ 64 || vy.toNat ≥ 32 || n.toNat > 32

/-- The part of a sprite byte that stays in its own byte column (R235). -/
def leftPart (b : Byte) (sh : Nat) : Byte := b >>> sh

/-- The part of a sprite byte that goes to the next byte column; 0 when `sh = 0` (R235). -/
def rightPart (b : Byte) (sh : Nat) : Byte := b <<< (8 - sh)

/-- The `n` sprite bytes at `I` (R234). -/
def State.spriteBytes (s : State) (n : BitVec 4) : List Byte := s.mem.readBytes s.dataAddr n.toNat

end Sys2Proof.Machine
end

