-- ==== Sys2Proof/Machine/Alu.lean ====
section
/-! DEFINITION. Register load, arithmetic, logic, shift and random instructions (spec 43_alu). None of them can fault or touches
`PC`, memory, `I`, the stack, the timers, the keys or the screen (R190). -/

namespace Sys2Proof.Machine

/-- `6xkk` LD Vx, kk (R192). -/
def execLdImm (x : RegNum) (kk : Byte) (s : State) : Host.Outcome State Fault Refusal :=
  .next (s.setReg x kk)

/-- `7xkk` ADD Vx, kk: modulo 256, VF untouched (R193). -/
def execAddImm (x : RegNum) (kk : Byte) (s : State) : Host.Outcome State Fault Refusal :=
  .next (s.setReg x (s.reg x + kk))

/-- `8xy0` LD Vx, Vy (R194). -/
def execLdReg (x y : RegNum) (s : State) : Host.Outcome State Fault Refusal :=
  .next (s.setReg x (s.reg y))

/-- `8xy1` OR; VF unchanged (R195, D14). -/
def execOrReg (x y : RegNum) (s : State) : Host.Outcome State Fault Refusal :=
  .next (s.setReg x (s.reg x ||| s.reg y))

/-- `8xy2` AND; VF unchanged (R196, D14). -/
def execAndReg (x y : RegNum) (s : State) : Host.Outcome State Fault Refusal :=
  .next (s.setReg x (s.reg x &&& s.reg y))

/-- `8xy3` XOR; VF unchanged (R197, D14). -/
def execXorReg (x y : RegNum) (s : State) : Host.Outcome State Fault Refusal :=
  .next (s.setReg x (s.reg x ^^^ s.reg y))

/-- `8xy4` ADD: the sum modulo 256, then VF the carry (R198, R191). -/
def execAddReg (x y : RegNum) (s : State) : Host.Outcome State Fault Refusal :=
  .next (s.setRegFlag x (s.reg x + s.reg y) (carryFlag (s.reg x) (s.reg y)))

/-- `8xy5` SUB: `V[x] - V[y]` modulo 256, then VF not-borrow (R199, R191). -/
def execSubReg (x y : RegNum) (s : State) : Host.Outcome State Fault Refusal :=
  .next (s.setRegFlag x (s.reg x - s.reg y) (notBorrowFlag (s.reg x) (s.reg y)))

/-- SHR for either value of `SHIFT_SRC_VY` (R200). -/
def shrWith (readsVy : Bool) (x y : RegNum) (s : State) : State :=
  s.setRegFlag x (s.reg (shiftSource readsVy x y) >>> 1) (shiftedOutLow (s.reg (shiftSource readsVy x y)))

/-- `8xy6` SHR: right by one, then VF the bit shifted out (R200, R191). -/
def execShr (x y : RegNum) (s : State) : Host.Outcome State Fault Refusal :=
  .next (shrWith shiftReadsVy x y s)

/-- `8xy7` SUBN: `V[y] - V[x]` modulo 256, then VF not-borrow (R201, R191). -/
def execSubn (x y : RegNum) (s : State) : Host.Outcome State Fault Refusal :=
  .next (s.setRegFlag x (s.reg y - s.reg x) (notBorrowFlag (s.reg y) (s.reg x)))

/-- SHL for either value of `SHIFT_SRC_VY` (R202). -/
def shlWith (readsVy : Bool) (x y : RegNum) (s : State) : State :=
  s.setRegFlag x (s.reg (shiftSource readsVy x y) <<< 1) (shiftedOutHigh (s.reg (shiftSource readsVy x y)))

/-- `8xyE` SHL: left by one, then VF the bit shifted out (R202, R191). -/
def execShl (x y : RegNum) (s : State) : Host.Outcome State Fault Refusal :=
  .next (shlWith shiftReadsVy x y s)

/-- `Cxkk` RND: a fresh free byte ANDed with `kk` (R203, D16, log 5). -/
def execRnd (x : RegNum) (kk : Byte) (s : State) : Host.Outcome State Fault Refusal :=
  .next (s.countDraw.setReg x (s.randomByte &&& kk))

end Sys2Proof.Machine
end

