-- ==== Sys2Proof/Machine/Display.lean ====
section
/-! DEFINITION. The draw instructions of the bitmap engine: CLS and DRW (spec 45_display R233 to R237). -/

namespace Sys2Proof.Machine

/-- The blank bitmap. -/
def blankScreen : Vector Byte 256 := Vector.replicate 256 0

/-- `00E0` CLS; VF unchanged (R233, D14). -/
def execCls (s : State) : Host.Outcome State Fault Refusal := .next (s.setScreen blankScreen)

/-- XOR one part of a sprite row into one screen byte, and whether it cleared a set pixel (R235). -/
def xorPart (scr : Vector Byte 256) (k : Fin 256) (part : Byte) : Vector Byte 256 × Bool :=
  (scr.set k.val (scr[k] ^^^ part) k.isLt, collides scr[k] part)

/-- One sprite row at pixel column `vx` and row `row`: the left part in its byte column, the right part in the next one
around the screen (R235). -/
def xorRow (scr : Vector Byte 256) (vx row : Nat) (b : Byte) : Vector Byte 256 × Bool :=
  let left := xorPart scr (screenIndex (vx / 8) row) (leftPart b (vx % 8))
  let right := xorPart left.1 (screenIndex (vx / 8 + 1) row) (rightPart b (vx % 8))
  (right.1, left.2 || right.2)

/-- The blit: the rows from `vy` down, around the screen, and whether any of them collided (R235, R236). -/
def blit (scr : Vector Byte 256) (vx vy : Nat) : List Byte → Vector Byte 256 × Bool
  | [] => (scr, false)
  | b :: bs =>
    let first := xorRow scr vx vy b
    let rest := blit first.1 vx (vy + 1) bs
    (rest.1, first.2 || rest.2)

/-- The blit of `Dxyn` in a state: operands are all read before anything is written (R234). -/
def State.drawn (s : State) (x y : RegNum) (n : BitVec 4) : Vector Byte 256 × Bool :=
  blit s.screen (s.reg x).toNat (s.reg y).toNat (s.spriteBytes n)

/-- `Dxyn` DRW: the coordinate check, the sprite range check, the blit, then VF the collision (R234, R235, R236, D17). -/
def execDrw (x y : RegNum) (n : BitVec 4) (s : State) : Host.Outcome State Fault Refusal :=
  if coordinatesInvalid (s.reg x) (s.reg y) n then .next (s.raise .invalidDrawCoordinates)
  else if readLegal s.dataAddr n.toNat then
    .next ((s.setScreen (s.drawn x y n).1).setReg regVF (flagByte (s.drawn x y n).2))
  else .next (s.raise .memoryOutOfBounds)

end Sys2Proof.Machine
end

