-- ==== Sys2Proof/Machine/Flow.lean ====
section
/-! DEFINITION. Control transfer: RET, JP, CALL, JP V0 and the compare-and-skip instructions (spec 42_flow).
On entry `PC` is the address of the instruction plus 2 (R170). -/

namespace Sys2Proof.Machine

/-- `00EE` RET (R171): the popped value is not checked here (D9, log 11). -/
def execRet (s : State) : Host.Outcome State Fault Refusal :=
  if h : 0 < s.sp.val then .next (s.dropTop.setPc (s.top h))
  else .next (s.raise .stackUnderflow)

/-- `1nnn` JP (R172): the target is checked by the next fetch (D9, log 11). -/
def execJp (nnn : BitVec 12) (s : State) : Host.Outcome State Fault Refusal :=
  .next (s.setPc (addrWord nnn))

/-- `2nnn` CALL (R173): the stack check first, then the target check, both before any write (D8, log 11). -/
def execCall (nnn : BitVec 12) (s : State) : Host.Outcome State Fault Refusal :=
  if h : s.sp.val < 16 then
    if fetchLegal nnn.toNat then .next ((s.push s.pc h).setPc (addrWord nnn))
    else .next (s.raise .memoryOutOfBounds)
  else .next (s.raise .stackOverflow)

/-- `Bnnn` JP V0 (R174): a 16-bit sum, not reduced to 12 bits and not checked here (D9, log 11). -/
def execJpV0 (nnn : BitVec 12) (s : State) : Host.Outcome State Fault Refusal :=
  .next (s.setPc (addrWord nnn + byteWord (s.reg regV0)))

/-- `3xkk` SE Vx, kk (R176, R175). -/
def execSeImm (x : RegNum) (kk : Byte) (s : State) : Host.Outcome State Fault Refusal :=
  .next (s.skipIf (s.reg x == kk))

/-- `4xkk` SNE Vx, kk (R177, R175). -/
def execSneImm (x : RegNum) (kk : Byte) (s : State) : Host.Outcome State Fault Refusal :=
  .next (s.skipIf (s.reg x != kk))

/-- `5xy0` SE Vx, Vy (R178, R175). -/
def execSeReg (x y : RegNum) (s : State) : Host.Outcome State Fault Refusal :=
  .next (s.skipIf (s.reg x == s.reg y))

/-- `9xy0` SNE Vx, Vy (R179, R175). -/
def execSneReg (x y : RegNum) (s : State) : Host.Outcome State Fault Refusal :=
  .next (s.skipIf (s.reg x != s.reg y))

end Sys2Proof.Machine
end

