-- ==== Sys2Proof/Machine/IndexMemory.lean ====
section
/-! DEFINITION. The index register and data memory instructions (spec 44_index_memory). The three that touch memory check their
whole range before the first access and leave `I` unchanged (R210). -/

namespace Sys2Proof.Machine

/-- `Annn` LD I, nnn (R211). -/
def execLdI (nnn : BitVec 12) (s : State) : Host.Outcome State Fault Refusal :=
  .next (s.setI (addrWord nnn))

/-- `Fx1E` ADD I, Vx: modulo 2^16, no flag (R212, D14, D20). -/
def execAddI (x : RegNum) (s : State) : Host.Outcome State Fault Refusal :=
  .next (s.setI (s.i + byteWord (s.reg x)))

/-- `Fx29` LD F, Vx: the high nibble is ignored; the check of the glyph's range cannot fail and is omitted (R213). -/
def execLdF (x : RegNum) (s : State) : Host.Outcome State Fault Refusal :=
  .next (s.setI (glyphAddr (s.reg x)))

/-- Store bytes at `I` when the whole range is writable, else `MemoryOutOfBounds` with nothing written (R68, R210, D18). -/
def storeAtI (bytes : List Byte) (s : State) : State :=
  if writeLegal s.dataAddr bytes.length then s.setMem (s.mem.writeBytes s.dataAddr bytes)
  else s.raise .memoryOutOfBounds

/-- `Fx33` LD B, Vx (R214). -/
def execLdB (x : RegNum) (s : State) : Host.Outcome State Fault Refusal :=
  .next (storeAtI (decimalDigits (s.reg x)) s)

/-- `Fx55` LD [I], Vx (R215). -/
def execStoreRegs (x : RegNum) (s : State) : Host.Outcome State Fault Refusal :=
  .next (storeAtI (s.regRange x) s)

/-- `Fx65` LD Vx, [I] (R216). -/
def execLoadRegs (x : RegNum) (s : State) : Host.Outcome State Fault Refusal :=
  if readLegal s.dataAddr (rangeCount x) then .next (s.loadRange s.dataAddr (rangeCount x))
  else .next (s.raise .memoryOutOfBounds)

end Sys2Proof.Machine
end

