-- ==== Sys2Proof/Machine/KeysTimers.lean ====
section
/-! DEFINITION. Keypad and timer instructions (spec 46_keys_timers). -/

namespace Sys2Proof.Machine

/-- `Ex9E` SKP Vx: the register value is validated, not masked (R261). -/
def execSkp (x : RegNum) (s : State) : Host.Outcome State Fault Refusal :=
  if isKeyNumber (s.reg x) then .next (s.skipIf (s.keyDown (keyOfByte (s.reg x))))
  else .next (s.raise .unknownKey)

/-- `ExA1` SKNP Vx (R262). -/
def execSknp (x : RegNum) (s : State) : Host.Outcome State Fault Refusal :=
  if isKeyNumber (s.reg x) then .next (s.skipIf (!s.keyDown (keyOfByte (s.reg x))))
  else .next (s.raise .unknownKey)

/-- `Fx07` LD Vx, DT: the value after this slot's timer tick (R263). -/
def execLdVxDt (x : RegNum) (s : State) : Host.Outcome State Fault Refusal := .next (s.setReg x s.dt)

/-- `Fx0A` LD Vx, K: the lowest key with a release edge, or back to this instruction (R264, D21). -/
def execLdVxK (x : RegNum) (s : State) : Host.Outcome State Fault Refusal :=
  match s.releasedKey with
  | some k => .next (s.setReg x (k.setWidth 8))
  | none => .next s.rewindPc

/-- `Fx15` LD DT, Vx (R265). -/
def execLdDtVx (x : RegNum) (s : State) : Host.Outcome State Fault Refusal := .next (s.setDt (s.reg x))

/-- `Fx18` LD ST, Vx (R266). -/
def execLdStVx (x : RegNum) (s : State) : Host.Outcome State Fault Refusal := .next (s.setSt (s.reg x))

end Sys2Proof.Machine
end

