-- ==== Sys2Proof/Machine/Slot.lean ====
section
/-! DEFINITION. One instruction slot: timer tick, fetch check, fetch, decode and execute, key latch (spec 41_vm_step R158 to R162). -/

namespace Sys2Proof.Machine

/-- Sub-step e: the key latch, in a slot that did not fault (R162). -/
def finishSlot (t : State) : State := if t.fault.isSome then t else t.latchKeys

/-- Sub-step d: decode and execute, then latch (R161, R162). `t` is the state after the fetch. -/
def runWord (w : Word) (t : State) : Host.Outcome State Fault Refusal :=
  match decodeWord w with
  | none => .next (t.raise .unknownInstruction)
  | some i =>
    match exec i t with
    | .next u => .next (finishSlot u)
    | .fault f => .fault f
    | .refused r => .refused r

/-- Sub-steps b to e, after the tick (R159 to R162). On an illegal `PC` nothing is fetched and `PC` keeps its value. -/
def fetchAndRun (t : State) : Host.Outcome State Fault Refusal :=
  if fetchLegal t.pc.toNat then runWord t.fetchWord t.advancePc
  else .next (t.raise .memoryOutOfBounds)

/-- One slot with timer time `tdpi` (R158 to R162, R164). -/
def slot (tdpi : Rat) (s : State) : Host.Outcome State Fault Refusal := fetchAndRun (s.timerTick tdpi)

/-- A slot of the call in progress, and the call's count of slots (R157). -/
def callSlot (c : StepCall) (s : State) : Host.Outcome State Fault Refusal :=
  match slot c.tdpi s with
  | .next t => .next (t.countSlot c)
  | .fault f => .fault f
  | .refused r => .refused r

end Sys2Proof.Machine
end

