-- ==== Sys2Proof/Machine/Step.lean ====
section
/-! DEFINITION. The step relation: one slot of the `step` call in progress, or the opening of the driver's next `step(DELTA)` call
(spec 00_scope R8, 41_vm_step R154 to R164; log 1). -/

namespace Sys2Proof.Machine

/-- One step of the machine. With no call in progress, the driver calls `step(DELTA)` (R154, R155). With a call in progress, the
loop test comes first (R157), then one slot. -/
def step (s : State) : Host.Outcome State Fault Refusal :=
  match s.call with
  | none => .next s.beginCall
  | some c => if s.fault.isSome then .next (s.setCall none) else callSlot c s

/-- `s` with the opcode table's word `w` placed where the next step fetches it (log 2, log 24). -/
def State.withFetchWord (s : State) (nbits w : Nat) : State := s.placeWord (tableWord nbits w)

end Sys2Proof.Machine
end

