-- ==== Sys2Proof/Machine/Scheduler.lean ====
section
/-! DEFINITION. The Fixed-Timestep Scheduler's three operations (spec 40_scheduler): the rules over natural tick counts, and the premises
under which they hold of `TW`-bit registers, outside which `advance` is refused (R138, D24, log 18). -/

namespace Sys2Proof.Machine

/-- `U`, one multiplicity unit of ticks (40_scheduler, abbreviations). -/
def Scheduler.unit (c : Scheduler) : Nat := c.tickPerStep * c.stepMultiplicity

/-- `CAP`, the spike clamp (40_scheduler, abbreviations; R125). -/
def Scheduler.spikeCap (c : Scheduler) : Nat := c.tickPerStep * c.stepMaximum

/-- `resync()` (R135): everything but the snap table and the parameters. -/
def Scheduler.resync (c : Scheduler) : Scheduler :=
  { c with
    lastTime := 0
    accumulator := 0
    residual := 0
    history := Vector.replicate 4 c.tickPerStep
    cursor := 0 }

/-- `ceil(ticks_per_second / hz)` for `hz > 0`: the exact quotient rounded up (R122, D27). -/
def snapPeriod (ticksPerSecond hz : Nat) : Nat := (ticksPerSecond + hz - 1) / hz

/-- `register_snap_frequency(hz)` for given TICKS_PER_SECOND and SNAP_CAP (R122). -/
def Scheduler.registerSnapWith (ticksPerSecond snapCap hz : Nat) (c : Scheduler) : Host.Outcome Scheduler Fault Refusal :=
  if snapCap ≤ c.snapTable.length then .refused .snapTableFull
  else if snapFrequencyWellFormed hz then .next { c with snapTable := c.snapTable ++ [snapPeriod ticksPerSecond hz] }
  else .refused .snapFrequencyZero

/-- `register_snap_frequency(hz)` (R122). -/
def Scheduler.registerSnap (hz : Nat) (c : Scheduler) : Host.Outcome Scheduler Fault Refusal :=
  c.registerSnapWith Config.ticksPerSecond Config.snapCap hz

/-- The sample after steps 1 and 2 of `advance`: raised to one unit on the rebaseline path, and never before the last one
(R123, R124). -/
def Scheduler.sampleTime (c : Scheduler) (sample : Nat) : Nat :=
  if c.lastTime = 0 then max sample c.unit else max sample c.lastTime

/-- `last_time` as step 3 sees it: one unit before the sample on the rebaseline path (R123). -/
def Scheduler.baseTime (c : Scheduler) (sample : Nat) : Nat :=
  if c.lastTime = 0 then max sample c.unit - c.unit else c.lastTime

/-- Step 3, the spike clamp (R125). -/
def Scheduler.rawDelta (c : Scheduler) (sample : Nat) : Nat :=
  min (c.sampleTime sample - c.baseTime sample) c.spikeCap

/-- A registered period accepts a delta: `|p - raw| / tick_per_step < SNAP_TOL`, exactly and strictly (R126, D27). -/
def Scheduler.accepts (c : Scheduler) (tol : NNRat) (raw period : Nat) : Bool :=
  (max period raw - min period raw) * tol.den < tol.num * c.tickPerStep

/-- Step 4, frequency snapping: the first accepting period in registration order (R126). -/
def Scheduler.snapped (c : Scheduler) (tol : NNRat) (raw : Nat) : Nat :=
  (c.snapTable.find? fun p => c.accepts tol raw p).getD raw

/-- The sum of the four history entries (R127). -/
def historySum (h : Vector Nat 4) : Nat := h[0] + h[1] + h[2] + h[3]

/-- Step 5's write: the delta goes to the entry at the cursor (R127). -/
def Scheduler.pushed (c : Scheduler) (delta : Nat) : Vector Nat 4 := c.history.set c.cursor.val delta c.cursor.isLt

/-- Step 6's `r`: the residual with the remainder of the average (R128). -/
def Scheduler.carry (c : Scheduler) (sum : Nat) : Nat := c.residual + sum % 4

/-- The ticks step 7 adds to the accumulator: the average and the residual's whole part (R127, R128). -/
def Scheduler.smoothed (c : Scheduler) (sum : Nat) : Nat := sum / 4 + c.carry sum / 4

/-- Step 7: whole steps in a tick count, rounded down to a multiple of the multiplicity (R129). -/
def Scheduler.wholeSteps (c : Scheduler) (ticks : Nat) : Nat :=
  ticks / c.tickPerStep - ticks / c.tickPerStep % c.stepMultiplicity

/-- Steps 7 to 9 of `advance`, for the sum of the new history: the returned count and the new state (R128 to R131). On the
overflow path the state is the resynced one and `last_time` stays 0 (C2, D26). -/
def Scheduler.commit (c : Scheduler) (sample : Nat) (hist : Vector Nat 4) : Nat × Scheduler :=
  let total := c.accumulator + c.smoothed (historySum hist)
  let n := c.wholeSteps total
  if n > c.stepMaximum then (c.stepMaximum, c.resync)
  else
    (n, { c with
      lastTime := c.sampleTime sample
      accumulator := total - n * c.tickPerStep
      residual := c.carry (historySum hist) % 4
      history := hist
      cursor := c.cursor + 1 })

/-- `advance(sample_time)` for a given SNAP_TOL (R123 to R132). -/
def Scheduler.advanceWith (tol : NNRat) (sample : Nat) (c : Scheduler) : Nat × Scheduler :=
  c.commit sample (c.pushed (c.snapped tol (c.rawDelta sample)))

/-- The largest registered period, 0 for an empty table (R138). -/
def Scheduler.largestPeriod (c : Scheduler) : Nat := c.snapTable.foldr max 0

/-- The premises of R138 for registers of `tw` bits and one sample. -/
def Scheduler.fitsWidth (tw sample : Nat) (c : Scheduler) : Bool :=
  sample < 2 ^ tw && 4 * max c.spikeCap c.largestPeriod + 3 < 2 ^ tw && c.unit + c.spikeCap + c.largestPeriod < 2 ^ tw

/-- `advance(sample_time) -> step_count` (R132), refused when the premises of R138 fail for `TW` bits (D24). -/
def Scheduler.advance (sample : Nat) (c : Scheduler) : Host.Outcome (Nat × Scheduler) Fault Refusal :=
  if c.fitsWidth Config.tickWidth sample then .next (c.advanceWith Config.snapTol sample) else .refused .tickWidthExceeded

end Sys2Proof.Machine
end

