-- ==== Sys2Proof/Machine/Sink.lean ====
section
/-! DEFINITION. The Framebuffer Sink's four operations (spec 45_display R240 to R245). -/

namespace Sys2Proof.Machine

/-- Opaque white (R243, D28). -/
def white : Pixel := ⟨255, 255, 255, 255⟩

/-- Opaque black (R243, D28). -/
def black : Pixel := ⟨0, 0, 0, 255⟩

/-- Pixel `j` of a buffer reallocated with draw number `k`: four free bytes (R240, D30, log 6). -/
def freePixel (k j : Nat) : Pixel :=
  ⟨Config.freePixelByte k j 0, Config.freePixelByte k j 1, Config.freePixelByte k j 2, Config.freePixelByte k j 3⟩

/-- The size of the buffer in bytes (R42). -/
def Sink.byteSize (k : Sink) : Nat := 4 * k.width * k.height

/-- `set_resolution(w, h)` with draw number `draw` for a reallocation: the pixels are kept when the byte size does not change,
else every byte of the new buffer is free (R240). -/
def Sink.setResolution (draw w h : Nat) (k : Sink) : Sink where
  width := w
  height := h
  pixels := if 4 * w * h = k.byteSize then k.pixels else (List.range (w * h)).map (freePixel draw)

/-- The bounds-checked write at `y * w + x` (R241). -/
def Sink.putPixel (x y : Nat) (colour : Pixel) (k : Sink) : Sink :=
  if x < k.width ∧ y < k.height then { k with pixels := k.pixels.set (y * k.width + x) colour } else k

/-- `set_pixel(x, y, color)`: dropped unless `0 <= x < w` and `0 <= y < h` (R241, D29). -/
def Sink.setPixel (x y : Int) (colour : Pixel) (k : Sink) : Sink :=
  if 0 ≤ x ∧ 0 ≤ y then k.putPixel x.toNat y.toNat colour else k

/-- `clear(color)`: every pixel (R242). -/
def Sink.clear (colour : Pixel) (k : Sink) : Sink := { k with pixels := k.pixels.map fun _ => colour }

/-- The colour of a bitmap pixel (R243). -/
def pixelColour (on : Bool) : Pixel := if on then white else black

/-- One pixel of `render_chip8`, the vertical axis flipped (R243). -/
def Sink.renderPixel (scr : Vector Byte 256) (y : Nat) (k : Sink) (x : Nat) : Sink :=
  k.putPixel x (k.height - 1 - y) (pixelColour (pixelOf scr x y))

/-- One bitmap row of `render_chip8` (R243). -/
def Sink.renderRow (scr : Vector Byte 256) (k : Sink) (y : Nat) : Sink :=
  (List.range 64).foldl (fun k x => k.renderPixel scr y x) k

/-- The two loops of `render_chip8` (R243). -/
def Sink.renderBitmap (scr : Vector Byte 256) (k : Sink) : Sink := (List.range 32).foldl (fun k y => k.renderRow scr y) k

/-- `render_chip8` (R243), refused for a Sink below 64 by 32 (R244, D29). -/
def Sink.render (scr : Vector Byte 256) (k : Sink) : Host.Outcome Sink Fault Refusal :=
  if renderSizeWellFormed k.width k.height then .next (k.renderBitmap scr) else .refused .sinkTooSmall

end Sys2Proof.Machine
end

