-- ==== Sys2Proof/Machine/Vm.lean ====
section
/-! DEFINITION. The VM's public operations: `create`, `set_keys`, `step(delta_seconds)` as one block, and the observations
(spec 41_vm_step R150 to R164). -/

namespace Sys2Proof.Machine

/-- Driver operations never overlap: none begins while a `step` call is in progress (R153, R325, log 22). -/
def whenIdle {α : Type} (s : State) (o : Host.Outcome α Fault Refusal) : Host.Outcome α Fault Refusal :=
  if s.call.isSome then .refused .operationInProgress else o

/-- The memory `create(rom)` leaves: the font, the ROM from 512 up, zeros (R20, R33, R78). -/
def romMemory (rom : List Byte) : Memory := Memory.writeBytes [] 512 rom

/-- The VM's state after `create(rom)`; the other units are not touched (R33, R150, R320). -/
def State.created (s : State) (rom : List Byte) : State :=
  { State.reset with mem := romMemory rom, sched := s.sched, sink := s.sink, draws := s.draws }

/-- `create(rom_bytes)` (R150), refused for a ROM over 3584 bytes (R151, D32). -/
def create (rom : List Byte) (s : State) : Host.Outcome State Fault Refusal :=
  whenIdle s (if romWellFormed rom then .next (s.created rom) else .refused .romTooLong)

/-- `set_keys(k[0..15])` (R153, D33). -/
def setKeys (k : Vector Bool 16) (s : State) : Host.Outcome State Fault Refusal := whenIdle s (.next (s.setKeys k))

/-- The observation `sound_on = (ST > 0)` (R152, R305). -/
def State.soundOn (s : State) : Bool := 0 < s.st.toNat

/-- The slot loop of `step` (R157): at most `n` slots of timer time `tdpi`, the fault tested before each. -/
def runSlots (tdpi : Rat) : Nat → State → Host.Outcome State Fault Refusal
  | 0, s => .next s
  | n + 1, s =>
    if s.fault.isSome then .next s
    else
      match slot tdpi s with
      | .next t => runSlots tdpi n t
      | .fault f => .fault f
      | .refused r => .refused r

/-- `step(delta_seconds)` as one block, for given rates (R164): an empty budget changes the accumulator only (R154, D4). -/
def stepBlockWith (ips speed timerHz delta : Rat) (s : State) : Host.Outcome State Fault Refusal :=
  let count := s.slotCount ips speed delta
  if count = 0 then .next (s.takeBudget ips speed delta)
  else runSlots (tdpiOf timerHz delta count) count (s.takeBudget ips speed delta)

/-- The driver's operation `step(delta_seconds)` (R164, R330). -/
def stepBlock (delta : NNRat) (s : State) : Host.Outcome State Fault Refusal :=
  whenIdle s (stepBlockWith Config.ips Config.speed Config.timerHz delta s)

end Sys2Proof.Machine
end

