-- ==== Sys2Proof/Machine/Driver.lean ====
section
/-! DEFINITION. The driver's operations over the whole block, each one atomic transition (spec 00_scope R7), and one driver cycle
(70_reset_and_hazards R324). -/

namespace Sys2Proof.Machine

/-- Go on with a next state; a fault or a refusal ends the sequence. -/
def andThen {α β : Type} (o : Host.Outcome α Fault Refusal) (f : α → Host.Outcome β Fault Refusal) : Host.Outcome β Fault Refusal :=
  match o with
  | .next a => f a
  | .fault e => .fault e
  | .refused r => .refused r

/-- `register_snap_frequency(hz)` on the block (R122). -/
def registerSnapFrequency (hz : Nat) (s : State) : Host.Outcome State Fault Refusal :=
  whenIdle s (andThen (s.sched.registerSnap hz) fun c => .next (s.setSched c))

/-- `advance(sample_time)` on the block: the returned step count and the new state (R132, R138). -/
def advance (sample : Nat) (s : State) : Host.Outcome (Nat × State) Fault Refusal :=
  whenIdle s (andThen (s.sched.advance sample) fun r => .next (r.1, s.setSched r.2))

/-- `resync()` on the block (R135). -/
def resync (s : State) : Host.Outcome State Fault Refusal := whenIdle s (.next (s.setSched s.sched.resync))

/-- `set_resolution(w, h)` on the block; it takes one draw for a reallocation (R240, log 6). -/
def setResolution (w h : Nat) (s : State) : Host.Outcome State Fault Refusal :=
  whenIdle s (.next (s.countDraw.setSink (s.sink.setResolution s.draws w h)))

/-- `set_pixel(x, y, color)` on the block (R241). -/
def setPixel (x y : Int) (colour : Pixel) (s : State) : Host.Outcome State Fault Refusal :=
  whenIdle s (.next (s.setSink (s.sink.setPixel x y colour)))

/-- `clear(color)` on the block (R242). -/
def clearSink (colour : Pixel) (s : State) : Host.Outcome State Fault Refusal :=
  whenIdle s (.next (s.setSink (s.sink.clear colour)))

/-- `render_chip8(vm, sink)` on the block (R243, R244). -/
def renderChip8 (s : State) : Host.Outcome State Fault Refusal :=
  whenIdle s (andThen (s.sink.render s.screen) fun k => .next (s.setSink k))

/-- The driver's operations with their arguments (R7). -/
inductive DriverOp where
  | create (rom : List Byte)
  | setKeys (k : Vector Bool 16)
  | step (delta : NNRat)
  | registerSnapFrequency (hz : Nat)
  | advance (sample : Nat)
  | resync
  | setResolution (w h : Nat)
  | setPixel (x y : Int) (colour : Pixel)
  | clear (colour : Pixel)
  | render

/-- What a driver operation does to the block; `advance`'s return value is dropped here. -/
def perform (op : DriverOp) (s : State) : Host.Outcome State Fault Refusal :=
  match op with
  | .create rom => create rom s
  | .setKeys k => setKeys k s
  | .step delta => stepBlock delta s
  | .registerSnapFrequency hz => registerSnapFrequency hz s
  | .advance sample => andThen (advance sample s) fun r => .next r.2
  | .resync => resync s
  | .setResolution w h => setResolution w h s
  | .setPixel x y colour => setPixel x y colour s
  | .clear colour => clearSink colour s
  | .render => renderChip8 s

/-- The cycle's `step` calls: `n` of them, none after a fault (R324, R329). -/
def stepTimes : Nat → State → Host.Outcome State Fault Refusal
  | 0, s => .next s
  | n + 1, s => if s.fault.isSome then .next s else andThen (stepBlock Config.delta s) (stepTimes n)

/-- The cycle's render, when no fault is set (R324, R328). -/
def renderIfClear (s : State) : Host.Outcome State Fault Refusal :=
  if s.fault.isSome then .next s else renderChip8 s

/-- One driver cycle (R324): keys, time sample, `N` steps, then the render. The display and audio collaborators then read the
Sink and `soundOn`. DESIGN CHOICE (log 31): a cycle with `N = 0` renders too, as R324's pseudocode reads; R328 lets it render or skip,
and N53 says the source states neither. -/
def driverCycle (k : Vector Bool 16) (now : Nat) (s : State) : Host.Outcome State Fault Refusal :=
  andThen (setKeys k s) fun t =>
    andThen (advance now t) fun r =>
      andThen (stepTimes r.1 r.2) renderIfClear

end Sys2Proof.Machine
end

