-- ==== Sys2Proof/Safety.lean ====
section
/-! DEFINITION. The terms claims are stated in: what a legal state is, what an operation changes and leaves, what a safe VM is. -/

namespace Sys2Proof.Machine

/-! ### Legal states -/

/-- The Scheduler's invariant (R35, R36, R38, R39, R133; C4 for the accumulator's bound). -/
structure Scheduler.Inv (c : Scheduler) : Prop where
  /-- The parameters obey their constraints (R36, R121). -/
  params : schedulerParamsWellFormed c.tickPerStep c.stepMultiplicity c.stepMaximum = true
  /-- `last_time` is a tick value of `TW` bits (R35). -/
  lastTime : c.lastTime < 2 ^ (Config.tickWidth : Nat)
  /-- `0 <= residual <= 3` (R38). -/
  residual : c.residual ≤ 3
  /-- `0 <= accumulator < tick_per_step * step_multiplicity` (R37, R133). -/
  accumulator : c.accumulator < c.tickPerStep * c.stepMultiplicity
  /-- Every registered period is positive (R39). -/
  periods : ∀ p ∈ c.snapTable, 1 ≤ p
  /-- At most `SNAP_CAP` periods are registered (R39). -/
  room : c.snapTable.length ≤ Config.snapCap
  /-- Every history entry is at most the spike clamp or some registered period (R133). -/
  history : ∀ k : Fin 4, c.history[k] ≤ c.tickPerStep * c.stepMaximum ∨ ∃ p ∈ c.snapTable, c.history[k] ≤ p

/-- The Sink's invariant: `w * h` pixels (R42). -/
def Sink.Inv (k : Sink) : Prop := k.pixels.length = k.width * k.height

/-- The block's invariant (R34, R25, R26, R31, R283), in every state a run reaches, faulted or not. -/
structure State.Inv (s : State) : Prop where
  /-- Memory is in canonical form. -/
  memWf : s.mem.wf = true
  /-- No byte below 512 differs from reset: the font is read-only and the reserved region untouched (R34, R68). -/
  lowMem : ∀ a < 512, s.mem.readByte a = Memory.unlisted a
  /-- `PC` is at most 0x10FE (R25). -/
  pcBound : s.pc.toNat ≤ 0x10FE
  /-- A stack entry is an address after a fetched instruction, so at most 4096 (R171). -/
  stackBound : ∀ k : Fin 16, s.stack[k].toNat ≤ 4096
  /-- `0 <= instr_accumulator < 1` (R31). -/
  instrAcc : 0 ≤ s.instrAcc ∧ s.instrAcc < 1
  /-- `0 <= timer_accumulator < 1` (R31). -/
  timerAcc : 0 ≤ s.timerAcc ∧ s.timerAcc < 1
  /-- An open call has slots to run, non-negative timer time and no fault (R155, R157). -/
  call : ∀ c, s.call = some c → 1 ≤ c.slotsLeft ∧ 0 ≤ c.tdpi ∧ s.fault = none
  /-- `RegisterOutOfBounds` is never raised (R283). -/
  noRegisterFault : s.fault ≠ some .registerOutOfBounds
  sched : s.sched.Inv
  sink : s.sink.Inv

/-- A safe VM: no fault has been raised (R30). -/
def State.Safe (s : State) : Prop := s.fault = none

/-! ### Frames: `t` is `s` but for the fields named -/

/-- Only the general registers changed. -/
def ChangesOnlyV (s t : State) : Prop := t = { s with v := t.v }
/-- Only `PC` changed. -/
def ChangesOnlyPc (s t : State) : Prop := t = { s with pc := t.pc }
/-- Only `I` changed. -/
def ChangesOnlyI (s t : State) : Prop := t = { s with i := t.i }
/-- Only memory changed. -/
def ChangesOnlyMem (s t : State) : Prop := t = { s with mem := t.mem }
/-- Only `DT` changed. -/
def ChangesOnlyDt (s t : State) : Prop := t = { s with dt := t.dt }
/-- Only `ST` changed. -/
def ChangesOnlySt (s t : State) : Prop := t = { s with st := t.st }
/-- Only the screen changed. -/
def ChangesOnlyScreen (s t : State) : Prop := t = { s with screen := t.screen }
/-- Only the screen and the general registers changed. -/
def ChangesOnlyScreenV (s t : State) : Prop := t = { s with screen := t.screen, v := t.v }
/-- Only the general registers and the model's counter of draws changed. -/
def ChangesOnlyVDraws (s t : State) : Prop := t = { s with v := t.v, draws := t.draws }
/-- Only `SP` and `PC` changed. -/
def ChangesOnlySpPc (s t : State) : Prop := t = { s with sp := t.sp, pc := t.pc }
/-- Only the stack, `SP` and `PC` changed. -/
def ChangesOnlyStackPc (s t : State) : Prop := t = { s with stack := t.stack, sp := t.sp, pc := t.pc }
/-- Only the Scheduler changed. -/
def ChangesOnlySched (s t : State) : Prop := t = { s with sched := t.sched }
/-- Only the Sink changed. -/
def ChangesOnlySink (s t : State) : Prop := t = { s with sink := t.sink }

/-- `t` is `s` with a fault raised and nothing else changed (R284, R285). -/
def RaisedIn (f : Fault) (s t : State) : Prop := t = { s with fault := some f }

/-- `s` with the timing machinery and the other two units of `o` (R168). -/
def State.withTimingOf (s o : State) : State :=
  { s with instrAcc := o.instrAcc, timerAcc := o.timerAcc, call := o.call, sched := o.sched, sink := o.sink }

/-! ### Runs -/

/-- `k` steps of the machine, ending early where one does not answer a next state. -/
def runSteps : Nat → State → Host.Outcome State Fault Refusal
  | 0, s => .next s
  | k + 1, s => andThen (step s) (runSteps k)

/-- The results of `advance` on a sequence of samples, and the state after it (R136). -/
def Scheduler.feed (tol : NNRat) : List Nat → Scheduler → List Nat × Scheduler
  | [], c => ([], c)
  | t :: ts, c =>
    let r := c.advanceWith tol t
    let rest := Scheduler.feed tol ts r.2
    (r.1 :: rest.1, rest.2)

/-- The premises under which a realisation with `tw`-bit tick registers agrees with the unbounded rules, for one sample (R138); "the
largest period" is said period by period. -/
structure Scheduler.WidthPremises (c : Scheduler) (tw sample : Nat) : Prop where
  sample : sample < 2 ^ tw
  clamp : 4 * (c.tickPerStep * c.stepMaximum) + 3 < 2 ^ tw
  period : ∀ p ∈ c.snapTable, 4 * p + 3 < 2 ^ tw
  total : c.tickPerStep * c.stepMultiplicity + c.tickPerStep * c.stepMaximum < 2 ^ tw
  totalPeriod : ∀ p ∈ c.snapTable, c.tickPerStep * c.stepMultiplicity + c.tickPerStep * c.stepMaximum + p < 2 ^ tw

end Sys2Proof.Machine
end

