-- ==== Sys2Proof/Certificates/Slice0/Obligations.lean ====
section
/-! DEFINITION. The statements for the provers, from the spec's numbered rules. A docstring says which rules a statement formalises,
and where a clause rests on a decision the spec marks as its own (D<n>) or on the model's log (log <n>). -/

open Sys2Proof Sys2Proof.Machine

/-! ## Encoding (30_encoding) -/

/-- Decode and encode agree. Decoding the bytes of any instruction, whatever follows them, gives it back with the rest untouched; and every
word has at most one meaning: the word of a decoded instruction is the word decoded, no bit of it ignored (R90, R91, R94, R96, R100, R101;
the masks are D10, log 10). -/
def Obligations.DecodeAndEncodeAgree : Prop :=
  (∀ (i : Instr) (rest : List Byte), i.wellFormed = true → decode (encodeBytes i ++ rest) = .ok (i, rest)) ∧
  (∀ (w : Word) (i : Instr), decodeWord w = some i → encode i = w)

/-- A word decodes exactly when a row of the opcode table selects it, to the instruction of that row, and no word is selected by
two rows (R94; the masks are D10, the `8xy-` nibbles D11: log 10). -/
def Obligations.DecodeFollowsTheRows : Prop :=
  ∀ w : Word,
    ((∃ i, decodeWord w = some i) ↔ ∃ row ∈ opcodeRows, w &&& row.mask = row.pattern) ∧
    (∀ i, decodeWord w = some i → ∀ row ∈ opcodeRows, w &&& row.mask = row.pattern → row.mnemonic = i.mnemonic) ∧
    (∀ r₁ ∈ opcodeRows, ∀ r₂ ∈ opcodeRows, w &&& r₁.mask = r₁.pattern → w &&& r₂.mask = r₂.pattern → r₁ = r₂)

/-- The worked encodings of R103, read from their bytes; `E19F` is no instruction. -/
def Obligations.WorkedEncodingsDecode : Prop :=
  decode [0x63, 0x42] = .ok (.ldImm 3 0x42, []) ∧
  decode [0xD1, 0x25] = .ok (.drw 1 2 5, []) ∧
  decode [0x22, 0x0A] = .ok (.call 0x20A, []) ∧
  decode [0xF2, 0x55] = .ok (.storeRegs 2, []) ∧
  decode [0x81, 0x2E] = .ok (.shl 1 2, []) ∧
  decode [0x8A, 0xB4] = .ok (.addReg 0xA 0xB, []) ∧
  decode [0xE1, 0x9F] = .error (.unknownInstruction 0xE19F)

/-- The host's placement: in any state, the word of any instruction is placed where the next step fetches it, with a call open and
no fault set, and the table's numbering decodes it (log 24). -/
def Obligations.PlacedWordIsFetched : Prop :=
  ∀ (s : State) (i : Instr),
    decodeTableWord 16 (encode i).toNat = some i ∧
    fetchLegal (s.withFetchWord 16 (encode i).toNat).pc.toNat = true ∧
    (s.withFetchWord 16 (encode i).toNat).fetchWord = encode i ∧
    (s.withFetchWord 16 (encode i).toNat).fault = none ∧
    (s.withFetchWord 16 (encode i).toNat).call.isSome = true

/-! ## Slots, steps and calls (41_vm_step) -/

/-- A step with a call open runs the instruction the bytes at `PC` decode to: the timer tick, `PC` two on, the instruction's own
effect, then the key latch unless it faulted, and one slot less of the call (R157 to R162; the call in State is log 1). -/
def Obligations.StepRunsDecodedInstruction : Prop :=
  ∀ (s u : State) (c : StepCall) (i : Instr),
    s.call = some c → s.fault = none → fetchLegal s.pc.toNat = true →
    decode [s.mem.readByte s.pc.toNat, s.mem.readByte (s.pc.toNat + 1)] = .ok (i, []) →
    exec i { s.timerTick c.tdpi with pc := s.pc + 2#16 } = .next u →
    step s = .next { u with
      lastKeys := if u.fault = none then u.keys else u.lastKeys
      call := if u.fault = none ∧ 1 < c.slotsLeft then some { c with slotsLeft := c.slotsLeft - 1 } else none }

/-- R158, the timer tick: with `d` the floor of the accumulator and the slot's timer time, the accumulator keeps the fraction and both
timers drop by `d`, each never below 0; nothing else changes; and the slot goes on from that state, so the instruction sees the
decremented values and a slot whose fetch faults has ticked. -/
def Obligations.TimerTickOfASlot : Prop :=
  ∀ (s : State) (q : Rat), 0 ≤ s.timerAcc → 0 ≤ q →
    ∃ t : State,
      t.timerAcc = s.timerAcc + q - ⌊s.timerAcc + q⌋₊ ∧
      t.dt.toNat = s.dt.toNat - min s.dt.toNat ⌊s.timerAcc + q⌋₊ ∧
      t.st.toNat = s.st.toNat - min s.st.toNat ⌊s.timerAcc + q⌋₊ ∧
      t = { s with timerAcc := t.timerAcc, dt := t.dt, st := t.st } ∧
      slot q s = fetchAndRun t

/-- R159, the fetch check: when `PC` or `PC + 1` lies outside [0,80) and [512,4096), the slot ends with `MemoryOutOfBounds`, `PC` keeps
the illegal value and nothing but the tick and the fault has changed. -/
def Obligations.FetchCheckFaults : Prop :=
  ∀ (s : State) (q : Rat),
    ¬ ((s.pc.toNat < 80 ∨ (512 ≤ s.pc.toNat ∧ s.pc.toNat < 4096)) ∧
       (s.pc.toNat + 1 < 80 ∨ (512 ≤ s.pc.toNat + 1 ∧ s.pc.toNat + 1 < 4096))) →
    slot q s = .next { s.timerTick q with fault := some .memoryOutOfBounds }

/-- An unmatched word at a legal `PC` ends the slot with `UnknownInstruction`, after the tick and with `PC` two on (R99, R161, R288;
which words are unmatched is D10 and D11, log 10). -/
def Obligations.UnmatchedWordFaults : Prop :=
  ∀ (s : State) (q : Rat) (w : Word),
    fetchLegal s.pc.toNat = true →
    decode [s.mem.readByte s.pc.toNat, s.mem.readByte (s.pc.toNat + 1)] = .error (.unknownInstruction w) →
    slot q s = .next { s.timerTick q with pc := s.pc + 2#16, fault := some .unknownInstruction }

/-- R162, the key latch: no slot changes `keys`; a slot that does not fault ends with `last_keys = keys`, whatever instruction ran;
one that faults leaves `last_keys` alone. -/
def Obligations.KeyLatchAtSlotEnd : Prop :=
  ∀ (s t : State) (q : Rat), s.fault = none → slot q s = .next t →
    t.keys = s.keys ∧
    (t.fault = none → ∀ k : Fin 16, t.lastKeys[k] = s.keys[k]) ∧
    (t.fault ≠ none → ∀ k : Fin 16, t.lastKeys[k] = s.lastKeys[k])

/-- What a fault leaves behind: when a slot ends in a fault, everything but the timer tick, `PC` (two on, or unchanged for the
fetch fault) and `fault` is as before (R285; that every check precedes every write is D35, log 9). -/
def Obligations.FaultLeavesTheRest : Prop :=
  ∀ (s t : State) (q : Rat) (f : Fault), s.fault = none → slot q s = .next t → t.fault = some f →
    t = { s.timerTick q with pc := t.pc, fault := some f } ∧
    t.pc = if fetchLegal s.pc.toNat then s.pc + 2#16 else s.pc

/-- When no slot runs. On a faulted VM neither a whole `step(delta_seconds)` nor the opening of the driver's next call runs an instruction
(R163; D5, log 23); when `instr_accumulator` stays below 1 no slot runs and no timer moves (D4, log 23). In both cases only
`instr_accumulator` moves, by R154. -/
def Obligations.NothingElseMovesWithoutSlots : Prop :=
  (∀ (s : State) (ips speed timerHz delta : Rat), 0 ≤ s.instrAcc + ips * delta * speed →
    s.fault ≠ none ∨ s.instrAcc + ips * delta * speed < 1 →
    stepBlockWith ips speed timerHz delta s =
      .next { s with instrAcc := Int.fract (s.instrAcc + ips * delta * speed) }) ∧
  (∀ s : State, 0 ≤ s.instrAcc → s.call = none →
    s.fault ≠ none ∨ s.instrAcc + Config.ips * Config.delta * Config.speed < 1 →
    step s = .next { s with instrAcc := Int.fract (s.instrAcc + Config.ips * Config.delta * Config.speed) })

/-- The opening of a call on a VM without fault (R154, R155): with `count = floor(instr_accumulator + IPS * delta * SPEED)` at least 1,
the accumulator keeps the fraction and the call has `count` slots of `TIMER_HZ * delta / count` timer time, and every slot of the call
uses that same value; and with no call in progress a step is that opening with the installation's rates (the call in State is log 1). -/
def Obligations.BudgetOfACall : Prop :=
  (∀ (s : State) (ips speed timerHz delta : Rat), s.fault = none →
    1 ≤ ⌊s.instrAcc + ips * delta * speed⌋₊ →
    s.beginCallWith ips speed timerHz delta =
      { s with
        instrAcc := Int.fract (s.instrAcc + ips * delta * speed)
        call := some { slotsLeft := ⌊s.instrAcc + ips * delta * speed⌋₊
                       tdpi := timerHz * delta / ⌊s.instrAcc + ips * delta * speed⌋₊ } }) ∧
  (∀ (s t : State) (c d : StepCall), s.call = some c → step s = .next t → t.call = some d →
    d.tdpi = c.tdpi ∧ d.slotsLeft + 1 = c.slotsLeft) ∧
  (∀ s : State, s.call = none → step s = .next (s.beginCallWith Config.ips Config.speed Config.timerHz Config.delta))

/-- The step relation in slots refines `step(DELTA)` as one block: from a state with no call in progress, some number of steps, at most
one more than the call's slots, gives exactly what the block of R164 gives (R8, R164; log 1). -/
def Obligations.StepsRefineTheBlock : Prop :=
  ∀ s : State, s.call = none →
    ∃ k, k ≤ 1 + ⌊s.instrAcc + Config.ips * Config.delta * Config.speed⌋₊ ∧
      runSteps k s = stepBlock Config.delta s

/-- Timer time is conserved: a `step` that runs all of its slots (it has at least one and ends without a fault) leaves in
`timer_accumulator` the fraction of what was there and `TIMER_HZ * delta_seconds` (R165). -/
def Obligations.TimerTimeConserved : Prop :=
  ∀ (s t : State) (ips speed timerHz delta : Rat),
    0 ≤ s.timerAcc → 0 ≤ timerHz * delta → 1 ≤ ⌊s.instrAcc + ips * delta * speed⌋₊ →
    s.fault = none → stepBlockWith ips speed timerHz delta s = .next t → t.fault = none →
    t.timerAcc = Int.fract (s.timerAcc + timerHz * delta)

/-- No instruction and no step is stopped by the model: each answers a next state (R284, R293: a fault is raised into the state). -/
def Obligations.EveryStepAnswersNext : Prop :=
  (∀ (i : Instr) (s : State), ∃ t, exec i s = .next t) ∧ (∀ s : State, ∃ t, step s = .next t)

/-! ## Invariants (10_state R34, 40_scheduler R133) -/

/-- Every step keeps the block's invariant: memory in canonical form with the font and the reserved region untouched, `PC` and the
stack bounded, the accumulators fractions, an open call legal, `RegisterOutOfBounds` never raised (R34, R25, R31, R283). -/
def Obligations.StepKeepsInvariant : Prop :=
  ∀ s t : State, s.Inv → step s = .next t → t.Inv

/-- Every operation of the driver keeps it too (R7, R34, R133), `last_time` below 2^TW included (R35; by the refusal of R138, D24, log 18). -/
def Obligations.DriverOperationsKeepInvariant : Prop :=
  ∀ (op : DriverOp) (s t : State), s.Inv → perform op s = .next t → t.Inv

/-- The state at reset meets it. -/
def Obligations.ResetMeetsInvariant : Prop := State.reset.Inv

/-! ## Reset (10_state R33, 41_vm_step R150) -/

/-- The table of reset values (R33): with no call in progress and a ROM of at most 3584 bytes, `create` leaves the font in [0,80), zeros
in [80,512), the ROM from 512, zeros after it, every register, the stack, the screen, the keys and both accumulators zero, `PC` 512
and no fault; with a longer ROM it fails. That the Scheduler and the Sink are untouched is R320 and the model's choice (log 21), not
R33; that no call is in progress afterwards is log 1. -/
def Obligations.CreateGivesResetValues : Prop :=
  ∀ (s : State) (rom : List Byte), s.call = none →
    (rom.length ≤ 3584 → ∃ t, create rom s = .next t ∧
      (∀ a < 80, t.mem.readByte a = Config.font a) ∧
      (∀ a, 80 ≤ a → a < 512 → t.mem.readByte a = 0) ∧
      (∀ (k : Nat) (hk : k < rom.length), t.mem.readByte (512 + k) = rom[k]) ∧
      (∀ a, 512 + rom.length ≤ a → t.mem.readByte a = 0) ∧
      (∀ r : RegNum, t.reg r = 0) ∧ t.i = 0 ∧ t.pc = 512 ∧ t.sp = 0 ∧ (∀ k : Fin 16, t.stack[k] = 0) ∧
      t.dt = 0 ∧ t.st = 0 ∧ (∀ k : Fin 256, t.screen[k] = 0) ∧
      (∀ k : Fin 16, t.keys[k] = false ∧ t.lastKeys[k] = false) ∧ t.fault = none ∧
      t.instrAcc = 0 ∧ t.timerAcc = 0 ∧ t.call = none ∧ t.sched = s.sched ∧ t.sink = s.sink) ∧
    (3584 < rom.length → ∀ t, create rom s ≠ .next t)

/-- What is refused: a ROM over 3584 bytes (D32, log 21), and any driver operation while a `step` call is in progress (R325, log 22). -/
def Obligations.RefusedOperations : Prop :=
  (∀ (s : State) (rom : List Byte), s.call = none → 3584 < rom.length → create rom s = .refused .romTooLong) ∧
  (∀ (s : State) (op : DriverOp), s.call ≠ none → perform op s = .refused .operationInProgress)

/-- `set_keys` writes the sixteen keys and nothing else, `last_keys` included (R153; the operation is D33, log 22), and `create` sets every key
up (R33). No other operation of the driver moves a key and no step does (R29), and a whole `step`, at any rates, leaves the Scheduler, the
Sink and the call as they were too (R8, R120). -/
def Obligations.KeysComeFromSetKeys : Prop :=
  (∀ (s : State) (k : Vector Bool 16), s.call = none → setKeys k s = .next { s with keys := k }) ∧
  (∀ (s t : State) (rom : List Byte), create rom s = .next t → ∀ k : Fin 16, t.keys[k] = false) ∧
  (∀ (op : DriverOp) (s t : State), (∀ rom, op ≠ .create rom) → (∀ k, op ≠ .setKeys k) → perform op s = .next t → t.keys = s.keys) ∧
  (∀ s t : State, step s = .next t → t.keys = s.keys) ∧
  (∀ (s t : State) (ips speed timerHz delta : Rat), stepBlockWith ips speed timerHz delta s = .next t →
    t.keys = s.keys ∧ t.sched = s.sched ∧ t.sink = s.sink ∧ t.call = s.call)

/-! ## Control transfer (42_flow) -/

/-- `00EE`: with an entry on the stack, `SP` drops by one, `PC` is the entry popped and nothing else changes; with an empty stack
`StackUnderflow` is raised and nothing else changes (R171, R286; layout D7, the unchecked target D9: log 11, log 13). -/
def Obligations.ReturnPopsOrUnderflows : Prop :=
  ∀ s : State,
    (∀ (k : Fin 16), s.sp.val = k.val + 1 →
      ∃ t, exec .ret s = .next t ∧ t.sp.val = k.val ∧ t.pc = s.stack[k] ∧ ChangesOnlySpPc s t) ∧
    (s.sp.val = 0 → ∃ t, exec .ret s = .next t ∧ RaisedIn .stackUnderflow s t)

/-- `2nnn`: with room on the stack and a legal target, the entry at `SP` is the next sequential address, the other entries stay, `SP` grows
by one and `PC` is `nnn`; with a full stack `StackOverflow`, else with an illegal target `MemoryOutOfBounds`, and nothing else
changes (R173, R287; the checks and their order are D8, the layout D7: log 11, log 13). -/
def Obligations.CallPushesOrFaults : Prop :=
  ∀ (s : State) (nnn : BitVec 12),
    (∀ k : Fin 16, s.sp.val = k.val → (nnn.toNat < 79 ∨ (512 ≤ nnn.toNat ∧ nnn.toNat < 4095)) →
      ∃ t, exec (.call nnn) s = .next t ∧ t.stack[k] = s.pc ∧ (∀ j : Fin 16, j ≠ k → t.stack[j] = s.stack[j]) ∧
        t.sp.val = k.val + 1 ∧ t.pc.toNat = nnn.toNat ∧ ChangesOnlyStackPc s t) ∧
    (s.sp.val = 16 → ∃ t, exec (.call nnn) s = .next t ∧ RaisedIn .stackOverflow s t) ∧
    (s.sp.val < 16 → ¬ (nnn.toNat < 79 ∨ (512 ≤ nnn.toNat ∧ nnn.toNat < 4095)) →
      ∃ t, exec (.call nnn) s = .next t ∧ RaisedIn .memoryOutOfBounds s t)

/-- A return after a call resumes at the instruction after the call, whatever the callee did to registers, memory and `PC`, as long as the
stack and `SP` are as the call left them (R171, R173, R180; D7, D8: log 11, log 13). -/
def Obligations.ReturnResumesAfterCall : Prop :=
  ∀ (s t u : State) (nnn : BitVec 12),
    s.sp.val < 16 → exec (.call nnn) s = .next t → t.fault = none → u.stack = t.stack → u.sp = t.sp →
    ∃ w, exec .ret u = .next w ∧ w.pc = s.pc ∧ w.sp = s.sp ∧ ChangesOnlySpPc u w

/-- `1nnn` and `Bnnn`: `PC` is `nnn`, or the sum of `nnn` and V0 (never reduced), and nothing else changes (R172, R174; that the target is
not checked here is D9, log 11). -/
def Obligations.JumpsSetPc : Prop :=
  ∀ (s : State) (nnn : BitVec 12),
    (∃ t, exec (.jp nnn) s = .next t ∧ t.pc.toNat = nnn.toNat ∧ ChangesOnlyPc s t) ∧
    (∃ t, exec (.jpV0 nnn) s = .next t ∧ t.pc.toNat = nnn.toNat + (s.reg 0).toNat ∧ ChangesOnlyPc s t)

/-- R176 and R177: `3xkk` skips when the register equals the immediate, `4xkk` when it does not; nothing else changes, VF included, for
every register; and these are the words of format XKK with major opcode 3 and 4. -/
def Obligations.SkipsAgainstImmediate : Prop :=
  ∀ (s : State) (x : RegNum) (kk : Byte),
    (decodeWord (0x3#4 ++ x ++ kk) = some (.seImm x kk) ∧ ∃ t, exec (.seImm x kk) s = .next t ∧
      t.pc.toNat = (if s.reg x = kk then s.pc.toNat + 2 else s.pc.toNat) % 65536 ∧ ChangesOnlyPc s t) ∧
    (decodeWord (0x4#4 ++ x ++ kk) = some (.sneImm x kk) ∧ ∃ t, exec (.sneImm x kk) s = .next t ∧
      t.pc.toNat = (if s.reg x = kk then s.pc.toNat else s.pc.toNat + 2) % 65536 ∧ ChangesOnlyPc s t)

/-- `5xy0` skips when the registers are equal, `9xy0` when they differ; nothing else changes; with `x = y` the first always skips and the
second never (R178, R179). -/
def Obligations.SkipsBetweenRegisters : Prop :=
  ∀ (s : State) (x y : RegNum),
    (∃ t, exec (.seReg x y) s = .next t ∧
      t.pc.toNat = (if s.reg x = s.reg y then s.pc.toNat + 2 else s.pc.toNat) % 65536 ∧ ChangesOnlyPc s t) ∧
    (∃ t, exec (.sneReg x y) s = .next t ∧
      t.pc.toNat = (if s.reg x = s.reg y then s.pc.toNat else s.pc.toNat + 2) % 65536 ∧ ChangesOnlyPc s t)

/-! ## Registers and ALU (43_alu) -/

/-- R192, R193, R194. `6xkk`: `V[x]` is `kk`. `7xkk`: `V[x]` is the sum modulo 256. `8xy0`: `V[x]` is `V[y]`, and with `x = y` nothing
changes at all. No other register changes, VF included unless it is the destination, and nothing else does; none faults; and these are
the words of formats XKK and XY with the rules' opcodes. -/
def Obligations.LoadAddMove : Prop :=
  ∀ (s : State) (x y : RegNum) (kk : Byte),
    (decodeWord (0x6#4 ++ x ++ kk) = some (.ldImm x kk) ∧ ∃ t, exec (.ldImm x kk) s = .next t ∧
      (∀ r, t.reg r = if r = x then kk else s.reg r) ∧ ChangesOnlyV s t) ∧
    (decodeWord (0x7#4 ++ x ++ kk) = some (.addImm x kk) ∧ ∃ t, exec (.addImm x kk) s = .next t ∧
      (t.reg x).toNat = ((s.reg x).toNat + kk.toNat) % 256 ∧ (∀ r, r ≠ x → t.reg r = s.reg r) ∧ ChangesOnlyV s t) ∧
    (decodeWord (0x8#4 ++ x ++ y ++ 0x0#4) = some (.ldReg x y) ∧ ∃ t, exec (.ldReg x y) s = .next t ∧
      (∀ r, t.reg r = if r = x then s.reg y else s.reg r) ∧ ChangesOnlyV s t ∧ (x = y → t = s))

/-- `8xy1`, `8xy2`, `8xy3` bit by bit; no other register changes, VF included (R195, R196, R197; that VF is left alone is D14,
log 15). -/
def Obligations.LogicBitByBit : Prop :=
  ∀ (s : State) (x y : RegNum),
    (∃ t, exec (.orReg x y) s = .next t ∧ (∀ b < 8, (t.reg x).getLsbD b = ((s.reg x).getLsbD b || (s.reg y).getLsbD b)) ∧
      (∀ r, r ≠ x → t.reg r = s.reg r) ∧ ChangesOnlyV s t) ∧
    (∃ t, exec (.andReg x y) s = .next t ∧ (∀ b < 8, (t.reg x).getLsbD b = ((s.reg x).getLsbD b && (s.reg y).getLsbD b)) ∧
      (∀ r, r ≠ x → t.reg r = s.reg r) ∧ ChangesOnlyV s t) ∧
    (∃ t, exec (.xorReg x y) s = .next t ∧ (∀ b < 8, (t.reg x).getLsbD b = xor ((s.reg x).getLsbD b) ((s.reg y).getLsbD b)) ∧
      (∀ r, r ≠ x → t.reg r = s.reg r) ∧ ChangesOnlyV s t)

/-- `8xy4`: with `a`, `b` the old values, `V[x]` is `(a + b) mod 256` unless `x = F`, VF is 1 when `a + b > 255` and else 0, whatever `x` and
`y` are; nothing else changes (R198; that the flag is written last is D13, log 15). -/
def Obligations.AddWithCarry : Prop :=
  ∀ (s : State) (x y : RegNum), ∃ t, exec (.addReg x y) s = .next t ∧
    (x ≠ 15 → (t.reg x).toNat = ((s.reg x).toNat + (s.reg y).toNat) % 256) ∧
    t.reg 15 = (if 255 < (s.reg x).toNat + (s.reg y).toNat then 1 else 0) ∧
    (∀ r, r ≠ x → r ≠ 15 → t.reg r = s.reg r) ∧ ChangesOnlyV s t

/-- `8xy5` and `8xy7`: the difference modulo 256 in `V[x]` unless `x = F`, and VF 1 exactly when no borrow is needed; nothing else changes
(R199, R201; the equal case is D15, the order D13: log 15). -/
def Obligations.SubtractWithNotBorrow : Prop :=
  ∀ (s : State) (x y : RegNum),
    (∃ t, exec (.subReg x y) s = .next t ∧
      (x ≠ 15 → (t.reg x).toNat = ((s.reg x).toNat + 256 - (s.reg y).toNat) % 256) ∧
      t.reg 15 = (if (s.reg y).toNat ≤ (s.reg x).toNat then 1 else 0) ∧
      (∀ r, r ≠ x → r ≠ 15 → t.reg r = s.reg r) ∧ ChangesOnlyV s t) ∧
    (∃ t, exec (.subn x y) s = .next t ∧
      (x ≠ 15 → (t.reg x).toNat = ((s.reg y).toNat + 256 - (s.reg x).toNat) % 256) ∧
      t.reg 15 = (if (s.reg x).toNat ≤ (s.reg y).toNat then 1 else 0) ∧
      (∀ r, r ≠ x → r ≠ 15 → t.reg r = s.reg r) ∧ ChangesOnlyV s t)

/-- `8xy6` and `8xyE`, for either value of SHIFT_SRC_VY: with `b` the register the parameter selects, `V[x]` is `b div 2` or `2 b mod 256`
unless `x = F`, and VF is bit 0 or bit 7 of `b`; nothing else changes (R200, R202; the parameter is D12, the order D13: log 4,
log 15). -/
def Obligations.ShiftByOne : Prop :=
  ∀ (s : State) (x y src : RegNum), src = (if Config.shiftSrcVy then y else x) →
    (∃ t, exec (.shr x y) s = .next t ∧ (x ≠ 15 → (t.reg x).toNat = (s.reg src).toNat / 2) ∧
      (t.reg 15).toNat = (s.reg src).toNat % 2 ∧
      (∀ r, r ≠ x → r ≠ 15 → t.reg r = s.reg r) ∧ ChangesOnlyV s t) ∧
    (∃ t, exec (.shl x y) s = .next t ∧ (x ≠ 15 → (t.reg x).toNat = (s.reg src).toNat * 2 % 256) ∧
      (t.reg 15).toNat = (s.reg src).toNat / 128 ∧
      (∀ r, r ≠ x → r ≠ 15 → t.reg r = s.reg r) ∧ ChangesOnlyV s t)

/-- `Cxkk`: the byte drawn, the free value numbered by the model's count of draws, masked by `kk`, in `V[x]`, so the result is at most `kk`;
the draw is counted, so that the next one is another free value; no other register changes and nothing else does (R203: the byte is
free in every execution; D16, log 5, which names the count). -/
def Obligations.RandomIsMasked : Prop :=
  ∀ (s : State) (x : RegNum) (kk : Byte), ∃ t, exec (.rnd x kk) s = .next t ∧
    t.reg x = Config.randomByte s.draws &&& kk ∧ t.draws = s.draws + 1 ∧ (t.reg x).toNat ≤ kk.toNat ∧
    (∀ r, r ≠ x → t.reg r = s.reg r) ∧ ChangesOnlyVDraws s t

/-! ## Index register and data memory (44_index_memory) -/

/-- R211, `Annn`: `I` is `nnn` zero-extended, so its bits 15 to 12 are 0; nothing is checked and nothing else changes; and these are the
words of format NNN with major opcode A. -/
def Obligations.LoadIndex : Prop :=
  ∀ (s : State) (nnn : BitVec 12),
    decodeWord (0xA#4 ++ nnn) = some (.ldI nnn) ∧
    ∃ t, exec (.ldI nnn) s = .next t ∧ t.i.toNat = nnn.toNat ∧ t.i.toNat < 4096 ∧ ChangesOnlyI s t

/-- `Fx1E`: `I` is the sum modulo 2^16. `Fx29`: `I` is five times the low nibble, at most 75, so the glyph's five bytes lie in the font.
Nothing else changes, VF included (R212, R213, R65; D14, D20, D22: log 14, log 15). -/
def Obligations.IndexSumAndGlyph : Prop :=
  ∀ (s : State) (x : RegNum),
    (∃ t, exec (.addI x) s = .next t ∧ t.i.toNat = (s.i.toNat + (s.reg x).toNat) % 65536 ∧ ChangesOnlyI s t) ∧
    (∃ t, exec (.ldF x) s = .next t ∧ t.i.toNat = 5 * ((s.reg x).toNat % 16) ∧ t.i.toNat + 5 ≤ 80 ∧ ChangesOnlyI s t)

/-- `Fx33`: when `I`, `I+1`, `I+2` lie in [512,4096) they receive the hundreds, tens and ones of `V[x]`, every other address reads as before
and nothing else changes; otherwise `MemoryOutOfBounds` with nothing written (R214; D18: log 8). -/
def Obligations.StoreDecimalDigits : Prop :=
  ∀ (s : State) (x : RegNum),
    (512 ≤ s.i.toNat → s.i.toNat ≤ 4093 → ∃ t, exec (.ldB x) s = .next t ∧
      (t.mem.readByte s.i.toNat).toNat = (s.reg x).toNat / 100 ∧
      (t.mem.readByte (s.i.toNat + 1)).toNat = (s.reg x).toNat / 10 % 10 ∧
      (t.mem.readByte (s.i.toNat + 2)).toNat = (s.reg x).toNat % 10 ∧
      (∀ a, a < s.i.toNat ∨ s.i.toNat + 3 ≤ a → t.mem.readByte a = s.mem.readByte a) ∧ ChangesOnlyMem s t) ∧
    (s.i.toNat < 512 ∨ 4093 < s.i.toNat → ∃ t, exec (.ldB x) s = .next t ∧ RaisedIn .memoryOutOfBounds s t)

/-- `Fx55`: when [I, I+x] lies in [512,4096), byte `I + j` is `V[j]` for every `j` up to `x`, every other address reads as before and nothing
else changes, `I` included; otherwise `MemoryOutOfBounds` with nothing written (R215; D18, D19: log 8, log 14). -/
def Obligations.StoreRegisterRange : Prop :=
  ∀ (s : State) (x : RegNum),
    (512 ≤ s.i.toNat → s.i.toNat + x.toNat ≤ 4095 → ∃ t, exec (.storeRegs x) s = .next t ∧
      (∀ j : RegNum, j ≤ x → t.mem.readByte (s.i.toNat + j.toNat) = s.reg j) ∧
      (∀ a, a < s.i.toNat ∨ s.i.toNat + x.toNat < a → t.mem.readByte a = s.mem.readByte a) ∧ ChangesOnlyMem s t) ∧
    (s.i.toNat < 512 ∨ 4095 < s.i.toNat + x.toNat →
      ∃ t, exec (.storeRegs x) s = .next t ∧ RaisedIn .memoryOutOfBounds s t)

/-- `Fx65`: when every address of [I, I+x] lies in [0,80) or [512,4096), `V[j]` is byte `I + j` for every `j` up to `x`, the registers above `x`
and everything else stay, `I` and memory included; otherwise `MemoryOutOfBounds` and no register has changed (R216; D18, D19: log 8,
log 14). -/
def Obligations.LoadRegisterRange : Prop :=
  ∀ (s : State) (x : RegNum),
    ((∀ j ≤ x.toNat, s.i.toNat + j < 80 ∨ (512 ≤ s.i.toNat + j ∧ s.i.toNat + j < 4096)) →
      ∃ t, exec (.loadRegs x) s = .next t ∧
        (∀ j : RegNum, t.reg j = if j ≤ x then s.mem.readByte (s.i.toNat + j.toNat) else s.reg j) ∧ ChangesOnlyV s t) ∧
    ((∃ j ≤ x.toNat, ¬ (s.i.toNat + j < 80 ∨ (512 ≤ s.i.toNat + j ∧ s.i.toNat + j < 4096))) →
      ∃ t, exec (.loadRegs x) s = .next t ∧ RaisedIn .memoryOutOfBounds s t)

/-- The round trip: after an `Fx55` that did not fault, an `Fx65` of the same range at the same `I` does not fault and gives every register of
the range its value back, even if the registers have changed in between (R217; D18, D19: log 8, log 14). -/
def Obligations.StoreThenLoadRestores : Prop :=
  ∀ (s t u : State) (x : RegNum),
    exec (.storeRegs x) s = .next t → t.fault = none → u.mem = t.mem → u.i = t.i →
    ∃ w, exec (.loadRegs x) u = .next w ∧ w.fault = u.fault ∧ ∀ j : RegNum, w.reg j = if j ≤ x then s.reg j else u.reg j

/-- A store is seen by the next fetch: after an `Fx55` that did not fault, the word fetched at an address whose two bytes were stored is
those two registers, the lower-numbered one as the high byte (R62, R76). -/
def Obligations.StoreIsFetchedBack : Prop :=
  ∀ (s t : State) (x j : RegNum), exec (.storeRegs x) s = .next t → t.fault = none → j < x →
    ({ t with pc := s.i + j.setWidth 16 } : State).fetchWord = wordOfBytes (s.reg j) (s.reg (j + 1))

/-! ## Display (45_display) -/

/-- `00E0`: every pixel is off and nothing else changes, VF included (R233; D14: log 15). -/
def Obligations.ClearScreen : Prop :=
  ∀ s : State, ∃ t, exec .cls s = .next t ∧ (∀ x < 64, ∀ y < 32, pixelOf t.screen x y = false) ∧ ChangesOnlyScreen s t

/-- `Dxyn` pixel by pixel: with coordinates on the screen and a readable sprite, pixel (px, py) is inverted exactly when some sprite row
`r` and column `k` with a 1 bit lies on it, both around the screen; no register but VF changes and nothing else does (R235; the
order of the checks is D17, log 16). -/
def Obligations.DrawInvertsPixels : Prop :=
  ∀ (s : State) (x y : RegNum) (n : BitVec 4),
    (s.reg x).toNat < 64 → (s.reg y).toNat < 32 → readLegal s.i.toNat n.toNat = true →
    ∃ t, exec (.drw x y n) s = .next t ∧
      (∀ px < 64, ∀ py < 32, (pixelOf t.screen px py ≠ pixelOf s.screen px py ↔
        ∃ r < n.toNat, ∃ k < 8, (s.mem.readByte (s.i.toNat + r)).getLsbD (7 - k) = true ∧
          px = ((s.reg x).toNat + k) % 64 ∧ py = ((s.reg y).toNat + r) % 32)) ∧
      (∀ r : RegNum, r ≠ 15 → t.reg r = s.reg r) ∧ ChangesOnlyScreenV s t

/-- The collision flag: VF is 1 exactly when some pixel that was on is off after the draw, and else 0, for any `x` and `y`
(R236; that VF is written after the coordinates are read is D17, log 16). -/
def Obligations.DrawCollisionFlag : Prop :=
  ∀ (s : State) (x y : RegNum) (n : BitVec 4),
    (s.reg x).toNat < 64 → (s.reg y).toNat < 32 → readLegal s.i.toNat n.toNat = true →
    ∃ t, exec (.drw x y n) s = .next t ∧
      (t.reg 15 = 0 ∨ t.reg 15 = 1) ∧
      (t.reg 15 = 1 ↔ ∃ px < 64, ∃ py < 32, pixelOf s.screen px py = true ∧ pixelOf t.screen px py = false)

/-- When `Dxyn` faults: coordinates off the screen first, whatever `I` and `n` are; then an unreadable sprite; an empty sprite is never
unreadable (R234, R290, R291; D17, D39: log 16). -/
def Obligations.DrawFaults : Prop :=
  ∀ (s : State) (x y : RegNum) (n : BitVec 4),
    (64 ≤ (s.reg x).toNat ∨ 32 ≤ (s.reg y).toNat →
      ∃ t, exec (.drw x y n) s = .next t ∧ RaisedIn .invalidDrawCoordinates s t) ∧
    ((s.reg x).toNat < 64 → (s.reg y).toNat < 32 →
      (∃ r < n.toNat, ¬ (s.i.toNat + r < 80 ∨ (512 ≤ s.i.toNat + r ∧ s.i.toNat + r < 4096))) →
      ∃ t, exec (.drw x y n) s = .next t ∧ RaisedIn .memoryOutOfBounds s t)

/-- Drawing a sprite twice at the same place restores the bitmap, byte for byte, and from a blank screen the first draw leaves VF 0 and the
second VF 1 unless the sprite is all zero (R238 (a); the order of the checks is D17, log 16). The second state is any with the same bitmap,
memory, `I` and coordinates, so the statement holds for `x = F` too. On a screen that is not blank R238's "VF = 1 unless the sprite is all
zero" does not follow from R236, and is not claimed (log 16). -/
def Obligations.DrawTwiceRestores : Prop :=
  ∀ (s : State) (x y : RegNum) (n : BitVec 4),
    (s.reg x).toNat < 64 → (s.reg y).toNat < 32 → readLegal s.i.toNat n.toNat = true →
    ∃ t, exec (.drw x y n) s = .next t ∧ ((∀ k : Fin 256, s.screen[k] = 0) → t.reg 15 = 0) ∧
      ∀ u : State, u.screen = t.screen → u.mem = s.mem → u.i = s.i → u.reg x = s.reg x → u.reg y = s.reg y →
        ∃ w, exec (.drw x y n) u = .next w ∧ w.screen = s.screen ∧
          ((∃ r < n.toNat, s.mem.readByte (s.i.toNat + r) ≠ 0) → (∀ k : Fin 256, s.screen[k] = 0) → w.reg 15 = 1)

/-! ## Keys and timers (46_keys_timers) -/

/-- `Ex9E` and `ExA1`: with a register value of at most 15, the first skips when that key is down, the second when it is up, and nothing
else changes; with a value above 15, `UnknownKey` and nothing else (R261, R262, R289; the fault's name is D39, log 16). -/
def Obligations.SkipsOnKeys : Prop :=
  ∀ (s : State) (x : RegNum),
    (∀ k : Fin 16, (s.reg x).toNat = k.val →
      (∃ t, exec (.skp x) s = .next t ∧
        t.pc.toNat = (if s.keys[k] = true then s.pc.toNat + 2 else s.pc.toNat) % 65536 ∧ ChangesOnlyPc s t) ∧
      (∃ t, exec (.sknp x) s = .next t ∧
        t.pc.toNat = (if s.keys[k] = true then s.pc.toNat else s.pc.toNat + 2) % 65536 ∧ ChangesOnlyPc s t)) ∧
    (15 < (s.reg x).toNat →
      (∃ t, exec (.skp x) s = .next t ∧ RaisedIn .unknownKey s t) ∧
      (∃ t, exec (.sknp x) s = .next t ∧ RaisedIn .unknownKey s t))

/-- `Fx0A`: when some key has a release edge, `V[x]` is the lowest such key's number, no other register changes and nothing else does;
when none has, `PC` goes back by two and nothing else changes (R264; the scan order is D21, log 17). -/
def Obligations.KeyWaitOnRelease : Prop :=
  ∀ (s : State) (x : RegNum),
    (∀ k : Fin 16, s.lastKeys[k] = true → s.keys[k] = false →
      (∀ j : Fin 16, j < k → ¬ (s.lastKeys[j] = true ∧ s.keys[j] = false)) →
      ∃ t, exec (.ldVxK x) s = .next t ∧ (t.reg x).toNat = k.val ∧ (∀ r, r ≠ x → t.reg r = s.reg r) ∧ ChangesOnlyV s t) ∧
    ((∀ k : Fin 16, ¬ (s.lastKeys[k] = true ∧ s.keys[k] = false)) →
      ∃ t, exec (.ldVxK x) s = .next t ∧ t.pc.toNat = (s.pc.toNat + 65534) % 65536 ∧ ChangesOnlyPc s t)

/-- `Fx07`, `Fx15`, `Fx18`: DT into `V[x]`, `V[x]` into DT, `V[x]` into ST; nothing else changes; and `sound_on` is `ST > 0`
(R263, R265, R266, R305). -/
def Obligations.TimerMoves : Prop :=
  ∀ (s : State) (x : RegNum),
    (∃ t, exec (.ldVxDt x) s = .next t ∧ (∀ r, t.reg r = if r = x then s.dt else s.reg r) ∧ ChangesOnlyV s t) ∧
    (∃ t, exec (.ldDtVx x) s = .next t ∧ t.dt = s.reg x ∧ ChangesOnlyDt s t) ∧
    (∃ t, exec (.ldStVx x) s = .next t ∧ t.st = s.reg x ∧ ChangesOnlySt s t ∧ (t.soundOn = true ↔ s.reg x ≠ 0))

/-! ## Whole-machine rules -/

/-- No instruction's effect depends on the timing machinery, the Scheduler or the Sink: with theirs replaced by those of any other state
it does the same and leaves theirs alone (R168, R2). -/
def Obligations.InstructionsIgnoreTiming : Prop :=
  ∀ (i : Instr) (s t o : State), exec i s = .next t → exec i (s.withTimingOf o) = .next (t.withTimingOf o)

/-! ## The Scheduler (40_scheduler) -/

/-- `resync` (R135): the sentinel, empty accumulator and residual, cursor 0, a steady history; the snap table and the parameters stay; doing
it twice is doing it once; and on the block nothing but the Scheduler changes. The third clause is not R135: that `advance`, when its
quantised count is above the maximum, returns the maximum and ends in exactly this state, `last_time` left 0, is the spec's decision D26
on the conflict C2 (R130, R131; log 19). -/
def Obligations.ResyncState : Prop :=
  (∀ c : Scheduler,
    c.resync.lastTime = 0 ∧ c.resync.accumulator = 0 ∧ c.resync.residual = 0 ∧ c.resync.cursor = 0 ∧
    (∀ k : Fin 4, c.resync.history[k] = c.tickPerStep) ∧
    c.resync.snapTable = c.snapTable ∧ c.resync.tickPerStep = c.tickPerStep ∧
    c.resync.stepMultiplicity = c.stepMultiplicity ∧ c.resync.stepMaximum = c.stepMaximum ∧ c.resync.resync = c.resync) ∧
  (∀ s : State, s.call = none → resync s = .next { s with sched := s.sched.resync }) ∧
  (∀ (c : Scheduler) (tol : NNRat) (sample total n : Nat),
    total = c.accumulator + historySum (c.pushed (c.snapped tol (c.rawDelta sample))) / 4 +
      (c.residual + historySum (c.pushed (c.snapped tol (c.rawDelta sample))) % 4) / 4 →
    n = total / c.tickPerStep - total / c.tickPerStep % c.stepMultiplicity → c.stepMaximum < n →
    c.advanceWith tol sample = (c.stepMaximum, c.resync))

/-- The first steps of `advance` (R123, R124, R125): from the sentinel, the delta is one multiplicity unit, clamped, whatever the sample; later
it is the distance from the last sample, 0 for an earlier one, clamped to `CAP`; and on the normal path `last_time` is the
adjusted sample, never before the last one. -/
def Obligations.AdvanceMeasuresDelta : Prop :=
  ∀ (c : Scheduler) (tol : NNRat) (sample : Nat),
    1 ≤ c.tickPerStep → 1 ≤ c.stepMultiplicity →
    c.rawDelta sample = (if c.lastTime = 0 then min (c.tickPerStep * c.stepMultiplicity) (c.tickPerStep * c.stepMaximum)
      else min (sample - c.lastTime) (c.tickPerStep * c.stepMaximum)) ∧
    ((c.advanceWith tol sample).2.lastTime ≠ 0 →
      (c.advanceWith tol sample).2.lastTime =
        (if c.lastTime = 0 then max sample (c.tickPerStep * c.stepMultiplicity) else max sample c.lastTime))

/-- The snap scan (R126; the exact strict comparison is D27, log 19): the delta is replaced by the first period in registration order
whose distance, relative to `tick_per_step`, is below the tolerance, and kept when there is none. -/
def Obligations.SnapFirstMatch : Prop :=
  ∀ (c : Scheduler) (tol : NNRat) (raw : Nat), 1 ≤ c.tickPerStep →
    (∀ (before after : List Nat) (p : Nat), c.snapTable = before ++ p :: after →
      (∀ q ∈ before, ¬ (|(q : Rat) - raw| / c.tickPerStep < tol)) → |(p : Rat) - raw| / c.tickPerStep < tol →
      c.snapped tol raw = p) ∧
    ((∀ q ∈ c.snapTable, ¬ (|(q : Rat) - raw| / c.tickPerStep < tol)) → c.snapped tol raw = raw)

/-- Bounds of every `advance` (R133): the count is at most `step_maximum`; on the normal path it is a multiple of the multiplicity, the
residual is at most 3 and the accumulator below one multiplicity unit; the delta stands in the history at the old cursor, the other
entries stay and the cursor moves on by one; parameters and snap table never change. The two paths are told apart by `last_time`
afterwards: 0 on the overflow path, which returns the maximum and leaves the resynced state, and not 0 on the normal one; that rests on
D26 (R130, R131; log 19). The block's operation is this rule with the installation's SNAP_TOL and changes nothing but the Scheduler
(R132); where a premise of R138 fails for TW bits it is refused, and what it checks is those premises (D24, log 18). -/
def Obligations.AdvanceBounds : Prop :=
  (∀ (c d : Scheduler) (tol : NNRat) (sample n : Nat),
    1 ≤ c.tickPerStep → 1 ≤ c.stepMultiplicity → c.advanceWith tol sample = (n, d) →
    n ≤ c.stepMaximum ∧
    (d.lastTime ≠ 0 → c.stepMultiplicity ∣ n ∧ d.residual ≤ 3 ∧ d.accumulator < c.tickPerStep * c.stepMultiplicity ∧
      d.history[c.cursor] = c.snapped tol (c.rawDelta sample) ∧
      (∀ k : Fin 4, k ≠ c.cursor → d.history[k] = c.history[k]) ∧ d.cursor = c.cursor + 1) ∧
    (d.lastTime = 0 → n = c.stepMaximum ∧ d = c.resync) ∧
    d.tickPerStep = c.tickPerStep ∧ d.stepMultiplicity = c.stepMultiplicity ∧ d.stepMaximum = c.stepMaximum ∧
    d.snapTable = c.snapTable) ∧
  (∀ (s : State) (sample : Nat), s.call = none →
    advance sample s =
      if s.sched.fitsWidth Config.tickWidth sample then
        .next ((s.sched.advanceWith Config.snapTol sample).1, { s with sched := (s.sched.advanceWith Config.snapTol sample).2 })
      else .refused .tickWidthExceeded) ∧
  (∀ (c : Scheduler) (tw sample : Nat), c.fitsWidth tw sample = true ↔ c.WidthPremises tw sample)

/-- Conservation (R134): on the normal path four times the ticks taken in (those consumed as steps and those left over, less those there before) and
the residual after are the sum of the new history and the residual before. -/
def Obligations.AdvanceConservesTicks : Prop :=
  ∀ (c d : Scheduler) (tol : NNRat) (sample n : Nat),
    1 ≤ c.tickPerStep → 1 ≤ c.stepMultiplicity → c.advanceWith tol sample = (n, d) → d.lastTime ≠ 0 →
    4 * (n * c.tickPerStep + d.accumulator) + d.residual =
      4 * c.accumulator + (d.history[(0 : Fin 4)] + d.history[(1 : Fin 4)] + d.history[(2 : Fin 4)] + d.history[(3 : Fin 4)]) +
        c.residual

/-- Widths (R138; D24, log 18): in a legal Scheduler, under the premises of R138 for `tw` bits and with a `last_time` of `tw` bits, these stay
below 2^tw: the count, the new registers, the adjusted sample and the delta on either path, the sum of the new history, and the ticks before
the whole steps are taken out. So registers of `tw` bits hold and add them without wrap-around. The products of the exact snap
comparison (R126) are not among them: R138's premises do not bound those. -/
def Obligations.AdvanceStaysInWidth : Prop :=
  ∀ (c d : Scheduler) (tol : NNRat) (tw sample n : Nat),
    c.Inv → c.lastTime < 2 ^ tw → c.WidthPremises tw sample → c.advanceWith tol sample = (n, d) →
    n < 2 ^ tw ∧ d.lastTime < 2 ^ tw ∧ d.accumulator < 2 ^ tw ∧ d.residual < 2 ^ tw ∧ (∀ j : Fin 4, d.history[j] < 2 ^ tw) ∧
    c.sampleTime sample < 2 ^ tw ∧ c.snapped tol (c.rawDelta sample) < 2 ^ tw ∧
    historySum (c.pushed (c.snapped tol (c.rawDelta sample))) < 2 ^ tw ∧
    c.accumulator + historySum (c.pushed (c.snapped tol (c.rawDelta sample))) / 4 +
      (c.residual + historySum (c.pushed (c.snapped tol (c.rawDelta sample))) % 4) / 4 < 2 ^ tw

/-- Steady input (R136, C5): with multiplicity 1, a steady history, nothing left over, no snap entry that alters a delta of one step, and a
first sample from the sentinel of at least one step, any number of samples one step apart gives 1 each time and leaves the Scheduler
steady. -/
def Obligations.SteadyInputGivesOneStepEach : Prop :=
  ∀ (c : Scheduler) (tol : NNRat) (first k : Nat),
    1 ≤ c.tickPerStep → c.stepMultiplicity = 1 → 1 < c.stepMaximum → c.lastTime = 0 → c.accumulator = 0 → c.residual = 0 →
    (∀ j : Fin 4, c.history[j] = c.tickPerStep) → c.snapped tol c.tickPerStep = c.tickPerStep → c.tickPerStep ≤ first →
    ∃ d : Scheduler,
      Scheduler.feed tol ((List.range (k + 1)).map fun j => first + j * c.tickPerStep) c = (List.replicate (k + 1) 1, d) ∧
      d.accumulator = 0 ∧ d.residual = 0 ∧ (∀ j : Fin 4, d.history[j] = c.tickPerStep) ∧
      d.lastTime = first + k * c.tickPerStep

/-- `register_snap_frequency` (R122; integer `hz`, exact quotient and refusals are D27, log 19): the period appended is the least `p` with
`p * hz >= TICKS_PER_SECOND`; only the end of the table changes; a full table or `hz = 0` is refused. The block's operation is this rule
with the installation's TICKS_PER_SECOND and SNAP_CAP, changes nothing but the Scheduler, and is refused when the rule is. -/
def Obligations.RegisterSnapAppends : Prop :=
  (∀ (c : Scheduler) (tps cap hz : Nat),
    (c.snapTable.length < cap → 1 ≤ hz →
      ∃ p, c.registerSnapWith tps cap hz = .next { c with snapTable := c.snapTable ++ [p] } ∧
        tps ≤ p * hz ∧ ∀ q, tps ≤ q * hz → p ≤ q) ∧
    (cap ≤ c.snapTable.length → c.registerSnapWith tps cap hz = .refused .snapTableFull) ∧
    (c.snapTable.length < cap → hz = 0 → c.registerSnapWith tps cap hz = .refused .snapFrequencyZero)) ∧
  (∀ (s : State) (hz : Nat), s.call = none →
    (∀ c, s.sched.registerSnapWith Config.ticksPerSecond Config.snapCap hz = .next c →
      registerSnapFrequency hz s = .next { s with sched := c }) ∧
    (∀ r, s.sched.registerSnapWith Config.ticksPerSecond Config.snapCap hz = .refused r → registerSnapFrequency hz s = .refused r))

/-! ## The Sink (45_display) -/

/-- R242, `clear`: every pixel of the Sink has the colour, the number of pixels and the size stay (with no pixels nothing changes), and nothing
but the Sink changes; and `00E0` does not touch the Sink. -/
def Obligations.ClearFillsSink : Prop :=
  (∀ (s : State) (colour : Pixel), s.call = none → ∃ t, clearSink colour s = .next t ∧ ChangesOnlySink s t ∧
    t.sink.width = s.sink.width ∧ t.sink.height = s.sink.height ∧ t.sink.pixels.length = s.sink.pixels.length ∧
    (∀ p ∈ t.sink.pixels, p = colour) ∧ (s.sink.pixels = [] → t = s)) ∧
  (∀ s t : State, exec .cls s = .next t → t.sink = s.sink)

/-- `set_resolution` and `set_pixel` on a legal Sink (R240, R241; unspecified new pixels D30, dropped writes D29: log 6, log 20): the size
is set and the pixels are kept when `w * h` does not change, and are `w * h` in number; a write inside the buffer changes that one pixel,
a write outside changes nothing. -/
def Obligations.ResizeAndSetPixel : Prop :=
  ∀ s : State, s.call = none → s.sink.Inv →
    (∀ w h : Nat, ∃ t, setResolution w h s = .next t ∧ t.sink.width = w ∧ t.sink.height = h ∧
      t.sink.pixels.length = w * h ∧ (w * h = s.sink.width * s.sink.height → t.sink.pixels = s.sink.pixels) ∧
      t = { s with sink := t.sink, draws := t.draws }) ∧
    (∀ (x y : Nat) (colour : Pixel), x < s.sink.width → y < s.sink.height →
      ∃ t, setPixel x y colour s = .next t ∧ ChangesOnlySink s t ∧
        t.sink.width = s.sink.width ∧ t.sink.height = s.sink.height ∧
        ∀ j, t.sink.pixels[j]? = if j = y * s.sink.width + x then some colour else s.sink.pixels[j]?) ∧
    (∀ (x y : Int) (colour : Pixel), ¬ (0 ≤ x ∧ x < s.sink.width ∧ 0 ≤ y ∧ y < s.sink.height) →
      setPixel x y colour s = .next s)

/-- `render_chip8` into a legal Sink of at least 64 by 32: bitmap pixel (x, y) stands at Sink column `x`, row `h - 1 - y`, white when on and
black when off; every other pixel keeps its value and nothing but the Sink changes; a smaller Sink is refused (R243; colours D28, refusal
D29: log 20). -/
def Obligations.RenderFlipsVertically : Prop :=
  ∀ s : State, s.call = none → s.sink.Inv →
    (64 ≤ s.sink.width → 32 ≤ s.sink.height → ∃ t, renderChip8 s = .next t ∧ ChangesOnlySink s t ∧
      t.sink.width = s.sink.width ∧ t.sink.height = s.sink.height ∧
      (∀ x < 64, ∀ y < 32, t.sink.pixels[(s.sink.height - 1 - y) * s.sink.width + x]? =
        some (if pixelOf s.screen x y then ⟨255, 255, 255, 255⟩ else ⟨0, 0, 0, 255⟩)) ∧
      (∀ x < s.sink.width, ∀ y < s.sink.height, (64 ≤ x ∨ y + 32 < s.sink.height) →
        t.sink.pixels[y * s.sink.width + x]? = s.sink.pixels[y * s.sink.width + x]?)) ∧
    (s.sink.width < 64 ∨ s.sink.height < 32 → renderChip8 s = .refused .sinkTooSmall)
end

