-- ==== Sys2Proof/Laws/Decode.lean ====
section
/-! SUPPORT. The fields of an assembled word, and a word as the assembly of its fields (R91, R92). -/

namespace Sys2Proof

section Fields

variable (op x y n : BitVec 4) (kk : Byte) (nnn : BitVec 12) (w : Word)

@[simp] theorem fieldOp_encNNN : fieldOp (encNNN op nnn) = op := by
  apply BitVec.eq_of_getLsbD_eq; intro i hi
  simp only [fieldOp, encNNN, BitVec.getLsbD_extractLsb', BitVec.getLsbD_append, hi, decide_true, Bool.true_and]
  rw [if_neg (by omega)]; congr 1; omega

@[simp] theorem fieldNNN_encNNN : fieldNNN (encNNN op nnn) = nnn := by
  apply BitVec.eq_of_getLsbD_eq; intro i hi
  simp only [fieldNNN, encNNN, BitVec.getLsbD_extractLsb', BitVec.getLsbD_append, hi, decide_true, Bool.true_and]
  rw [if_pos (by omega)]; congr 1; omega

@[simp] theorem fieldOp_encXKK : fieldOp (encXKK op x kk) = op := by
  apply BitVec.eq_of_getLsbD_eq; intro i hi
  simp only [fieldOp, encXKK, BitVec.getLsbD_extractLsb', BitVec.getLsbD_append, hi, decide_true, Bool.true_and]
  rw [if_neg (by omega), if_neg (by omega)]; congr 1; omega

@[simp] theorem fieldX_encXKK : fieldX (encXKK op x kk) = x := by
  apply BitVec.eq_of_getLsbD_eq; intro i hi
  simp only [fieldX, encXKK, BitVec.getLsbD_extractLsb', BitVec.getLsbD_append, hi, decide_true, Bool.true_and]
  rw [if_neg (by omega), if_pos (by omega)]; congr 1; omega

@[simp] theorem fieldKK_encXKK : fieldKK (encXKK op x kk) = kk := by
  apply BitVec.eq_of_getLsbD_eq; intro i hi
  simp only [fieldKK, encXKK, BitVec.getLsbD_extractLsb', BitVec.getLsbD_append, hi, decide_true, Bool.true_and]
  rw [if_pos (by omega)]; congr 1; omega

@[simp] theorem fieldOp_encXYN : fieldOp (encXYN op x y n) = op := by
  apply BitVec.eq_of_getLsbD_eq; intro i hi
  simp only [fieldOp, encXYN, BitVec.getLsbD_extractLsb', BitVec.getLsbD_append, hi, decide_true, Bool.true_and]
  rw [if_neg (by omega), if_neg (by omega), if_neg (by omega)]; congr 1; omega

@[simp] theorem fieldX_encXYN : fieldX (encXYN op x y n) = x := by
  apply BitVec.eq_of_getLsbD_eq; intro i hi
  simp only [fieldX, encXYN, BitVec.getLsbD_extractLsb', BitVec.getLsbD_append, hi, decide_true, Bool.true_and]
  rw [if_neg (by omega), if_neg (by omega), if_pos (by omega)]; congr 1; omega

@[simp] theorem fieldY_encXYN : fieldY (encXYN op x y n) = y := by
  apply BitVec.eq_of_getLsbD_eq; intro i hi
  simp only [fieldY, encXYN, BitVec.getLsbD_extractLsb', BitVec.getLsbD_append, hi, decide_true, Bool.true_and]
  rw [if_neg (by omega), if_pos (by omega)]; congr 1; omega

@[simp] theorem fieldN_encXYN : fieldN (encXYN op x y n) = n := by
  apply BitVec.eq_of_getLsbD_eq; intro i hi
  simp only [fieldN, encXYN, BitVec.getLsbD_extractLsb', BitVec.getLsbD_append, hi, decide_true, Bool.true_and]
  rw [if_pos (by omega)]; congr 1; omega

theorem encNNN_fields : encNNN (fieldOp w) (fieldNNN w) = w := by
  apply BitVec.eq_of_getLsbD_eq; intro i hi
  simp only [fieldOp, fieldNNN, encNNN, BitVec.getLsbD_extractLsb', BitVec.getLsbD_append]
  split
  · next h => simp [h]
  · next h => simp only [show i - 12 < 4 by omega, decide_true, Bool.true_and]; congr 1; omega

theorem encXKK_fields : encXKK (fieldOp w) (fieldX w) (fieldKK w) = w := by
  apply BitVec.eq_of_getLsbD_eq; intro i hi
  simp only [fieldOp, fieldX, fieldKK, encXKK, BitVec.getLsbD_extractLsb', BitVec.getLsbD_append]
  split
  · next h => simp [h]
  · split
    · next h => simp only [h, decide_true, Bool.true_and]; congr 1; omega
    · next h => simp only [show i - 8 - 4 < 4 by omega, decide_true, Bool.true_and]; congr 1; omega

theorem encXYN_fields : encXYN (fieldOp w) (fieldX w) (fieldY w) (fieldN w) = w := by
  apply BitVec.eq_of_getLsbD_eq; intro i hi
  simp only [fieldOp, fieldX, fieldY, fieldN, encXYN, BitVec.getLsbD_extractLsb', BitVec.getLsbD_append]
  split
  · next h => simp [h]
  · split
    · next h => simp only [h, decide_true, Bool.true_and]; congr 1; omega
    · split
      · next h => simp only [h, decide_true, Bool.true_and]; congr 1; omega
      · next h => simp only [show i - 4 - 4 - 4 < 4 by omega, decide_true, Bool.true_and]; congr 1; omega

/-- A word is its two bytes, high byte first (R62). -/
@[simp] theorem wordOfBytes_bytes : wordOfBytes (highByte w) (lowByte w) = w := by
  apply BitVec.eq_of_getLsbD_eq; intro i hi
  simp only [wordOfBytes, highByte, lowByte, BitVec.getLsbD_extractLsb', BitVec.getLsbD_append]
  split
  · next h => simp [h]
  · next h => simp only [show i - 8 < 8 by omega, decide_true, Bool.true_and]; congr 1; omega

/-! The three field masks of R96. -/

theorem and_F000 : w &&& 0xF000#16 = encNNN (fieldOp w) 0#12 := by
  apply BitVec.eq_of_getLsbD_eq; intro i hi
  simp only [fieldOp, encNNN, BitVec.getLsbD_and, BitVec.getLsbD_extractLsb', BitVec.getLsbD_append]
  interval_cases i <;> simp

theorem and_F00F : w &&& 0xF00F#16 = encXYN (fieldOp w) 0#4 0#4 (fieldN w) := by
  apply BitVec.eq_of_getLsbD_eq; intro i hi
  simp only [fieldOp, fieldN, encXYN, BitVec.getLsbD_and, BitVec.getLsbD_extractLsb', BitVec.getLsbD_append]
  interval_cases i <;> simp

theorem and_F0FF : w &&& 0xF0FF#16 = encXKK (fieldOp w) 0#4 (fieldKK w) := by
  apply BitVec.eq_of_getLsbD_eq; intro i hi
  simp only [fieldOp, fieldKK, encXKK, BitVec.getLsbD_and, BitVec.getLsbD_extractLsb', BitVec.getLsbD_append]
  interval_cases i <;> simp

end Fields

end Sys2Proof
end

