-- ==== Sys2Proof/Laws/Display.lean ====
section
/-! SUPPORT. The draw instruction pixel by pixel (R232, R235, R236). -/

namespace Sys2Proof.Machine

/-- Row `row` of a sprite drawn at column `vx` with byte `b` puts a 1 over pixel (px, py). -/
def rowHit (vx row : Nat) (b : Byte) (px py : Nat) : Bool :=
  py == row % 32 && decide ((px + 64 - vx) % 64 < 8) && b.getLsbD (7 - (px + 64 - vx) % 64)

/-- The whole sprite inverts pixel (px, py): the parity of its rows' hits. -/
def blitHit (vx : Nat) : Nat → List Byte → Nat → Nat → Bool
  | _, [], _, _ => false
  | vy, b :: bs, px, py => xor (rowHit vx vy b px py) (blitHit vx (vy + 1) bs px py)

theorem screenIndex_eq_iff (c r c' r' : Nat) : screenIndex c r = screenIndex c' r' ↔ c % 8 = c' % 8 ∧ r % 32 = r' % 32 := by
  simp only [screenIndex, Fin.mk.injEq]; omega

theorem xorPart_get (scr : Vector Byte 256) (k j : Fin 256) (part : Byte) :
    (xorPart scr k part).1[j] = if j = k then scr[j] ^^^ part else scr[j] := by
  simp only [xorPart, Fin.getElem_fin, Vector.getElem_set]
  by_cases h : j = k
  · subst h; simp
  · have : k.val ≠ j.val := fun e => h (Fin.ext e.symm)
    simp [h, this]

theorem xorRow_get (scr : Vector Byte 256) (vx row : Nat) (b : Byte) (j : Fin 256) :
    (xorRow scr vx row b).1[j] =
      if j = screenIndex (vx / 8 + 1) row then scr[j] ^^^ rightPart b (vx % 8)
      else if j = screenIndex (vx / 8) row then scr[j] ^^^ leftPart b (vx % 8) else scr[j] := by
  have hne : screenIndex (vx / 8 + 1) row ≠ screenIndex (vx / 8) row := by
    rw [Ne, screenIndex_eq_iff]; omega
  simp only [xorRow, xorPart_get]
  by_cases h : j = screenIndex (vx / 8 + 1) row
  · simp only [h, if_true, hne, if_false]
  · simp only [h, if_false]

/-- What one sprite row does to a pixel. -/
theorem xorRow_pixel (scr : Vector Byte 256) (vx row px py : Nat) (b : Byte) (hv : vx < 64) (hp : px < 64) (hy : py < 32) :
    pixelOf (xorRow scr vx row b).1 px py = xor (pixelOf scr px py) (rowHit vx row b px py) := by
  simp only [pixelOf, xorRow_get, screenIndex_eq_iff, rowHit]
  by_cases hr : py = row % 32
  · have hb : (py == row % 32) = true := by simpa using hr
    have e1 : py % 32 = row % 32 := by omega
    rw [hb, Bool.true_and]
    by_cases hc : px / 8 % 8 = (vx / 8 + 1) % 8
    · rw [if_pos ⟨hc, e1⟩, BitVec.getLsbD_xor, rightPart, BitVec.getLsbD_shiftLeft]
      congr 1
      by_cases hs : px % 8 < vx % 8
      · have e : (px + 64 - vx) % 64 = 8 - vx % 8 + px % 8 := by omega
        rw [e, show 7 - px % 8 - (8 - vx % 8) = 7 - (8 - vx % 8 + px % 8) by omega,
          decide_eq_true (show 7 - px % 8 < 8 by omega), decide_eq_false (show ¬ (7 - px % 8 < 8 - vx % 8) by omega),
          decide_eq_true (show 8 - vx % 8 + px % 8 < 8 by omega)]
        rfl
      · rw [decide_eq_true (show 7 - px % 8 < 8 - vx % 8 by omega), decide_eq_false (show ¬ ((px + 64 - vx) % 64 < 8) by omega)]
        simp
    · rw [if_neg (fun h => hc h.1)]
      by_cases hc' : px / 8 % 8 = vx / 8 % 8
      · rw [if_pos ⟨hc', e1⟩, BitVec.getLsbD_xor, leftPart, BitVec.getLsbD_ushiftRight]
        congr 1
        by_cases hs : vx % 8 ≤ px % 8
        · have e : (px + 64 - vx) % 64 = px % 8 - vx % 8 := by omega
          rw [e, show vx % 8 + (7 - px % 8) = 7 - (px % 8 - vx % 8) by omega, decide_eq_true (show px % 8 - vx % 8 < 8 by omega)]
          rfl
        · rw [decide_eq_false (show ¬ ((px + 64 - vx) % 64 < 8) by omega), Bool.false_and]
          exact BitVec.getLsbD_of_ge _ _ (by omega)
      · rw [if_neg (fun h => hc' h.1), decide_eq_false (show ¬ ((px + 64 - vx) % 64 < 8) by omega)]
        simp
  · have hb : (py == row % 32) = false := by simpa using hr
    have e1 : ¬ (py % 32 = row % 32) := by omega
    rw [hb, if_neg (fun h => e1 h.2), if_neg (fun h => e1 h.2)]
    simp

/-- What the whole blit does to a pixel. -/
theorem blit_pixel (bs : List Byte) (scr : Vector Byte 256) (vx vy px py : Nat) (hv : vx < 64) (hp : px < 64) (hy : py < 32) :
    pixelOf (blit scr vx vy bs).1 px py = xor (pixelOf scr px py) (blitHit vx vy bs px py) := by
  induction bs generalizing scr vy with
  | nil => simp [blit, blitHit]
  | cons b bs ih => simp only [blit, blitHit, ih, xorRow_pixel scr vx vy px py b hv hp hy, Bool.xor_assoc]

/-- A hit of one row, in the spec's words (R235). -/
theorem rowHit_iff (vx row px py : Nat) (b : Byte) (hv : vx < 64) (hp : px < 64) :
    rowHit vx row b px py = true ↔ ∃ k < 8, b.getLsbD (7 - k) = true ∧ px = (vx + k) % 64 ∧ py = row % 32 := by
  simp only [rowHit, Bool.and_eq_true, beq_iff_eq, decide_eq_true_eq]
  constructor
  · rintro ⟨⟨h1, h2⟩, h3⟩
    exact ⟨_, h2, h3, by omega, h1⟩
  · rintro ⟨k, hk, hb, hx, hy⟩
    have e : (px + 64 - vx) % 64 = k := by omega
    exact ⟨⟨hy, by omega⟩, by rw [e]; exact hb⟩

/-- A hit of a sprite of at most 32 rows, in the spec's words: no two of its rows land on one screen row (R235). -/
theorem blitHit_iff (bs : List Byte) (vx vy px py : Nat) (hv : vx < 64) (hp : px < 64) (hn : bs.length ≤ 32) :
    blitHit vx vy bs px py = true ↔
      ∃ r, ∃ hr : r < bs.length, ∃ k < 8, bs[r].getLsbD (7 - k) = true ∧ px = (vx + k) % 64 ∧ py = (vy + r) % 32 := by
  induction bs generalizing vy with
  | nil => simp [blitHit]
  | cons b bs ih =>
    simp only [List.length_cons] at hn
    have ih := ih (vy + 1) (by omega)
    simp only [blitHit]
    constructor
    · intro h
      cases h0 : rowHit vx vy b px py with
      | true =>
        obtain ⟨k, hk, hb, hx, hy⟩ := (rowHit_iff vx vy px py b hv hp).1 h0
        exact ⟨0, by simp, k, hk, by simpa using hb, hx, by simpa using hy⟩
      | false =>
        rw [h0, Bool.false_xor] at h
        obtain ⟨r, hr, k, hk, hb, hx, hy⟩ := ih.1 h
        exact ⟨r + 1, by simpa using hr, k, hk, by simpa using hb, hx, by rw [hy]; congr 1; omega⟩
    · rintro ⟨r, hr, k, hk, hb, hx, hy⟩
      cases r with
      | zero =>
        have h0 : rowHit vx vy b px py = true := (rowHit_iff vx vy px py b hv hp).2 ⟨k, hk, by simpa using hb, hx, by simpa using hy⟩
        have h1 : blitHit vx (vy + 1) bs px py = false := by
          rw [Bool.eq_false_iff, Ne, ih]
          rintro ⟨r, hr', k', -, -, -, hy'⟩
          simp at hy; omega
        rw [h0, h1]; rfl
      | succ r =>
        have hr' : r < bs.length := by simpa using hr
        have h1 : blitHit vx (vy + 1) bs px py = true :=
          ih.2 ⟨r, hr', k, hk, by simpa using hb, hx, by rw [hy]; congr 1; omega⟩
        have h0 : rowHit vx vy b px py = false := by
          rw [Bool.eq_false_iff, Ne, rowHit_iff vx vy px py b hv hp]
          rintro ⟨k', -, -, -, hy'⟩
          omega
        rw [h0, h1]; rfl

/-- A byte with a bit in common with a part: some pixel of that byte is set under the part. -/
theorem collides_iff (a b : Byte) : collides a b = true ↔ ∃ c < 8, a.getLsbD (7 - c) = true ∧ b.getLsbD (7 - c) = true := by
  simp only [collides, bne_iff_ne, ne_eq]
  constructor
  · intro h
    by_contra hc
    apply h
    apply BitVec.eq_of_getLsbD_eq
    intro i hi
    by_contra hb
    have hb : (a &&& b).getLsbD i = true := by simpa using hb
    rw [BitVec.getLsbD_and, Bool.and_eq_true] at hb
    have e : 7 - (7 - i) = i := by omega
    exact hc ⟨7 - i, by omega, by rw [e]; exact hb.1, by rw [e]; exact hb.2⟩
  · rintro ⟨c, hc, ha, hb⟩ h
    have := congrArg (fun z => z.getLsbD (7 - c)) h
    simp [ha, hb] at this

/-- One sprite row collides exactly when it hits a set pixel (R236). -/
theorem xorRow_collides (scr : Vector Byte 256) (vx row : Nat) (b : Byte) (hv : vx < 64) :
    (xorRow scr vx row b).2 = true ↔
      ∃ px < 64, ∃ py < 32, pixelOf scr px py = true ∧ rowHit vx row b px py = true := by
  have hne : screenIndex (vx / 8 + 1) row ≠ screenIndex (vx / 8) row := by
    rw [Ne, screenIndex_eq_iff]; omega
  have e2 : (xorRow scr vx row b).2 =
      (collides scr[screenIndex (vx / 8) row] (leftPart b (vx % 8)) ||
        collides scr[screenIndex (vx / 8 + 1) row] (rightPart b (vx % 8))) := by
    have := xorPart_get scr (screenIndex (vx / 8) row) (screenIndex (vx / 8 + 1) row) (leftPart b (vx % 8))
    rw [if_neg hne] at this
    simp only [xorRow]
    simp only [xorPart] at this ⊢
    rw [this]
  rw [e2, Bool.or_eq_true, collides_iff, collides_iff]
  constructor
  · rintro (⟨c, hc, ha, hb⟩ | ⟨c, hc, ha, hb⟩)
    · refine ⟨vx / 8 * 8 + c, by omega, row % 32, by omega, ?_, ?_⟩
      · have ei : screenIndex ((vx / 8 * 8 + c) / 8) (row % 32) = screenIndex (vx / 8) row := by
          rw [screenIndex_eq_iff]; omega
        simp only [pixelOf, ei]
        rwa [show (vx / 8 * 8 + c) % 8 = c by omega]
      · rw [leftPart, BitVec.getLsbD_ushiftRight] at hb
        have hlt : vx % 8 + (7 - c) < 8 := BitVec.lt_of_getLsbD hb
        rw [rowHit_iff _ _ _ _ _ hv (by omega)]
        exact ⟨c - vx % 8, by omega, by rwa [show 7 - (c - vx % 8) = vx % 8 + (7 - c) by omega], by omega, by omega⟩
    · refine ⟨(vx / 8 + 1) % 8 * 8 + c, by omega, row % 32, by omega, ?_, ?_⟩
      · have ei : screenIndex (((vx / 8 + 1) % 8 * 8 + c) / 8) (row % 32) = screenIndex (vx / 8 + 1) row := by
          rw [screenIndex_eq_iff]; omega
        simp only [pixelOf, ei]
        rwa [show ((vx / 8 + 1) % 8 * 8 + c) % 8 = c by omega]
      · rw [rightPart, BitVec.getLsbD_shiftLeft] at hb
        simp only [Bool.and_eq_true, decide_eq_true_eq, Bool.not_eq_true', decide_eq_false_iff_not] at hb
        rw [rowHit_iff _ _ _ _ _ hv (by omega)]
        exact ⟨8 - vx % 8 + c, by omega, by rw [show 7 - (8 - vx % 8 + c) = 7 - c - (8 - vx % 8) by omega]; exact hb.2, by omega, by omega⟩
  · rintro ⟨px, hp, py, hy, hpix, hhit⟩
    rw [rowHit_iff _ _ _ _ _ hv hp] at hhit
    obtain ⟨k, hk, hb, hx, hyr⟩ := hhit
    by_cases hs : vx % 8 + k < 8
    · left
      refine ⟨px % 8, by omega, ?_, ?_⟩
      · have ei : screenIndex (px / 8) py = screenIndex (vx / 8) row := by rw [screenIndex_eq_iff]; omega
        simpa only [pixelOf, ei] using hpix
      · rw [leftPart, BitVec.getLsbD_ushiftRight]
        rwa [show vx % 8 + (7 - px % 8) = 7 - k by omega]
    · right
      refine ⟨px % 8, by omega, ?_, ?_⟩
      · have ei : screenIndex (px / 8) py = screenIndex (vx / 8 + 1) row := by rw [screenIndex_eq_iff]; omega
        simpa only [pixelOf, ei] using hpix
      · rw [rightPart, BitVec.getLsbD_shiftLeft]
        simp only [Bool.and_eq_true, decide_eq_true_eq, Bool.not_eq_true', decide_eq_false_iff_not]
        exact ⟨⟨by omega, by omega⟩, by rwa [show 7 - px % 8 - (8 - vx % 8) = 7 - k by omega]⟩

/-- A sprite of at most 32 rows collides exactly when it hits a pixel that was set before the draw (R236). -/
theorem blit_collides (bs : List Byte) (scr : Vector Byte 256) (vx vy : Nat) (hv : vx < 64) (hn : bs.length ≤ 32) :
    (blit scr vx vy bs).2 = true ↔
      ∃ px < 64, ∃ py < 32, pixelOf scr px py = true ∧ blitHit vx vy bs px py = true := by
  induction bs generalizing scr vy with
  | nil => simp [blit, blitHit]
  | cons b bs ih =>
    simp only [List.length_cons] at hn
    have ih := ih (xorRow scr vx vy b).1 (vy + 1) (by omega)
    have apart : ∀ px < 64, ∀ py, rowHit vx vy b px py = true → blitHit vx (vy + 1) bs px py = false := by
      intro px hp py h0
      rw [Bool.eq_false_iff, Ne, blitHit_iff bs vx (vy + 1) px py hv hp (by omega)]
      rintro ⟨r, hr, k, -, -, -, hy⟩
      obtain ⟨k', -, -, -, hy'⟩ := (rowHit_iff vx vy px py b hv hp).1 h0
      omega
    simp only [blit, blitHit, Bool.or_eq_true, xorRow_collides scr vx vy b hv, ih]
    constructor
    · rintro (⟨px, hp, py, hy, h1, h2⟩ | ⟨px, hp, py, hy, h1, h2⟩)
      · exact ⟨px, hp, py, hy, h1, by rw [h2, apart px hp py h2]; rfl⟩
      · have h0 : rowHit vx vy b px py = false := by
          cases h0 : rowHit vx vy b px py with
          | false => rfl
          | true => rw [apart px hp py h0] at h2; cases h2
        rw [xorRow_pixel scr vx vy px py b hv hp hy, h0, Bool.xor_false] at h1
        exact ⟨px, hp, py, hy, h1, by rw [h0, h2]; rfl⟩
    · rintro ⟨px, hp, py, hy, h1, h2⟩
      cases h0 : rowHit vx vy b px py with
      | true => exact .inl ⟨px, hp, py, hy, h1, h0⟩
      | false =>
        rw [h0, Bool.false_xor] at h2
        exact .inr ⟨px, hp, py, hy, by rw [xorRow_pixel scr vx vy px py b hv hp hy, h0, Bool.xor_false]; exact h1, h2⟩

/-- Two bitmaps with the same pixels are the same bytes (R230, R231). -/
theorem screen_ext (a b : Vector Byte 256) (h : ∀ px < 64, ∀ py < 32, pixelOf a px py = pixelOf b px py) : a = b := by
  apply Vector.ext
  intro i hi
  apply BitVec.eq_of_getLsbD_eq
  intro j hj
  have := h (i / 32 * 8 + (7 - j)) (by omega) (i % 32) (by omega)
  have ei : screenIndex ((i / 32 * 8 + (7 - j)) / 8) (i % 32) = ⟨i, hi⟩ := by
    simp only [screenIndex, Fin.mk.injEq]; omega
  simp only [pixelOf, ei] at this
  rw [show 7 - (i / 32 * 8 + (7 - j)) % 8 = j by omega] at this
  simpa using this

end Sys2Proof.Machine
end

