-- ==== Sys2Proof/Laws/Driver.lean ====
section
/-! SUPPORT. What the driver's sequencing can do, said once (spec 00_scope R7, 70_reset_and_hazards R325). -/

namespace Sys2Proof.Machine

/-- With no call in progress an operation is what it is. -/
@[simp] theorem whenIdle_of_idle {α : Type} (s : State) (o : Host.Outcome α Fault Refusal) (h : s.call = none) : whenIdle s o = o := by
  simp [whenIdle, h]

/-- With a call in progress every operation is refused (R325). -/
@[simp] theorem whenIdle_of_busy {α : Type} (s : State) (o : Host.Outcome α Fault Refusal) (h : s.call ≠ none) :
    whenIdle s o = .refused .operationInProgress := by
  simp [whenIdle, Option.isSome_iff_ne_none, h]

/-- An operation that answers a next state ran with no call in progress. -/
theorem whenIdle_eq_next {α : Type} {s : State} {o : Host.Outcome α Fault Refusal} {a : α} :
    whenIdle s o = .next a ↔ s.call = none ∧ o = .next a := by
  by_cases h : s.call = none <;> simp [h]

@[simp] theorem andThen_next {α β : Type} (a : α) (f : α → Host.Outcome β Fault Refusal) : andThen (.next a) f = f a := rfl
@[simp] theorem andThen_fault {α β : Type} (e : Fault) (f : α → Host.Outcome β Fault Refusal) : andThen (.fault e) f = .fault e := rfl
@[simp] theorem andThen_refused {α β : Type} (r : Refusal) (f : α → Host.Outcome β Fault Refusal) :
    andThen (.refused r) f = .refused r := rfl

/-- A sequence that answers a next state went through one. -/
theorem andThen_eq_next {α β : Type} {o : Host.Outcome α Fault Refusal} {f : α → Host.Outcome β Fault Refusal} {b : β} :
    andThen o f = .next b ↔ ∃ a, o = .next a ∧ f a = .next b := by
  cases o <;> simp

end Sys2Proof.Machine
end

