-- ==== Sys2Proof/Laws/Memory.lean ====
section
/-! SUPPORT. Memory: a read after a write, the canonical form, and ranges of bytes. -/

namespace Sys2Proof.Machine.Memory

@[simp] theorem readByte_nil (a : Nat) : readByte [] a = unlisted a := rfl

theorem findByte_insertByte_same (m : Memory) (a : Nat) (b : Byte) : (insertByte m a b).findByte a = some b := by
  induction m with
  | nil => simp [insertByte, findByte]
  | cons c m ih =>
    simp only [insertByte]
    split
    · simp [findByte]
    · split
      · simp [findByte]
      · next h1 h2 => simp [findByte, ih, Ne.symm h2]

theorem findByte_insertByte_other (m : Memory) (a a' : Nat) (b : Byte) (h : a' ≠ a) :
    (insertByte m a b).findByte a' = m.findByte a' := by
  induction m with
  | nil => simp [insertByte, findByte, Ne.symm h]
  | cons c m ih =>
    simp only [insertByte]
    split
    · simp [findByte, Ne.symm h]
    · split
      · next h2 => simp [findByte, ← h2, Ne.symm h]
      · simp [findByte, ih]

theorem findByte_removeByte_same (m : Memory) (a : Nat) : (removeByte m a).findByte a = none := by
  induction m with
  | nil => rfl
  | cons c m ih =>
    simp only [removeByte] at ih ⊢
    by_cases h : c.1 = a <;> simp [h, findByte, ih]

theorem findByte_removeByte_other (m : Memory) (a a' : Nat) (h : a' ≠ a) :
    (removeByte m a).findByte a' = m.findByte a' := by
  induction m with
  | nil => rfl
  | cons c m ih =>
    simp only [removeByte] at ih ⊢
    by_cases hc : c.1 = a
    · simp [hc, findByte, ih, Ne.symm h]
    · simp [hc, findByte, ih]

@[simp] theorem readByte_writeByte_same (m : Memory) (a : Nat) (b : Byte) : (m.writeByte a b).readByte a = b := by
  unfold writeByte readByte
  split
  · next h => simp [findByte_removeByte_same, h]
  · simp [findByte_insertByte_same]

theorem readByte_writeByte_other (m : Memory) (a a' : Nat) (b : Byte) (h : a' ≠ a) :
    (m.writeByte a b).readByte a' = m.readByte a' := by
  unfold writeByte readByte
  split
  · rw [findByte_removeByte_other m a a' h]
  · rw [findByte_insertByte_other m a a' b h]

/-- Everything a write of one byte does to reads. -/
theorem readByte_writeByte (m : Memory) (a a' : Nat) (b : Byte) :
    (m.writeByte a b).readByte a' = if a' = a then b else m.readByte a' := by
  split
  · next h => subst h; exact readByte_writeByte_same m a' b
  · next h => exact readByte_writeByte_other m a a' b h

/-! The canonical form. -/

@[simp] theorem wf_nil : wf [] = true := rfl

theorem wf_cons (c : Host.Cell) (m : Memory) :
    wf (c :: m) = true ↔ c.1 < 4096 ∧ c.2 ≠ unlisted c.1 ∧ (∀ d ∈ m, c.1 < d.1) ∧ wf m = true := by
  simp [wf, and_assoc]

theorem mem_insertByte (m : Memory) (a : Nat) (b : Byte) (d : Host.Cell) (h : d ∈ insertByte m a b) :
    d = (a, b) ∨ d ∈ m := by
  induction m with
  | nil => simp [insertByte] at h; exact .inl h
  | cons c m ih =>
    simp only [insertByte] at h
    split at h
    · simp at h ⊢; tauto
    · split at h
      · simp at h ⊢; tauto
      · simp only [List.mem_cons] at h ⊢
        rcases h with h | h
        · exact .inr (.inl h)
        · rcases ih h with h | h <;> tauto

theorem insertByte_wf (m : Memory) (a : Nat) (b : Byte) (ha : a < 4096) (hb : b ≠ unlisted a) (hm : wf m = true) :
    wf (insertByte m a b) = true := by
  induction m with
  | nil => simp [insertByte, wf_cons, ha, hb]
  | cons c m ih =>
    have hc := (wf_cons c m).1 hm
    obtain ⟨h1, h2, h3, h4⟩ := hc
    simp only [insertByte]
    split
    · next h =>
      refine (wf_cons _ _).2 ⟨ha, hb, ?_, hm⟩
      intro d hd
      rcases List.mem_cons.1 hd with rfl | hd
      · exact h
      · exact Nat.lt_trans h (h3 d hd)
    · split
      · next h => exact (wf_cons _ _).2 ⟨ha, hb, by simpa [h] using h3, h4⟩
      · refine (wf_cons _ _).2 ⟨h1, h2, ?_, ih h4⟩
        intro d hd
        rcases mem_insertByte m a b d hd with rfl | hd
        · simp; omega
        · exact h3 d hd

theorem removeByte_wf (m : Memory) (a : Nat) (hm : wf m = true) : wf (removeByte m a) = true := by
  induction m with
  | nil => rfl
  | cons c m ih =>
    obtain ⟨h1, h2, h3, h4⟩ := (wf_cons c m).1 hm
    have ih := ih h4
    simp only [removeByte] at ih ⊢
    by_cases hc : c.1 = a
    · simpa [hc] using ih
    · have : List.filter (fun c => c.1 != a) (c :: m) = c :: List.filter (fun c => c.1 != a) m := by simp [hc]
      rw [this]
      exact (wf_cons _ _).2 ⟨h1, h2, fun d hd => h3 d (List.mem_filter.1 hd).1, ih⟩

/-- A write below 4096 keeps the canonical form. -/
theorem writeByte_wf (m : Memory) (a : Nat) (b : Byte) (ha : a < 4096) (hm : wf m = true) : wf (m.writeByte a b) = true := by
  unfold writeByte
  split
  · exact removeByte_wf m a hm
  · next h => exact insertByte_wf m a b ha h hm

/-- A write lists no address but its own anew. -/
theorem mem_writeByte (m : Memory) (a : Nat) (b : Byte) (d : Host.Cell) (h : d ∈ m.writeByte a b) : d.1 = a ∨ d ∈ m := by
  unfold writeByte at h
  split at h
  · exact .inr (List.mem_filter.1 h).1
  · rcases mem_insertByte m a b d h with rfl | h
    · exact .inl rfl
    · exact .inr h

/-! Ranges. -/

@[simp] theorem length_readBytes (m : Memory) (a n : Nat) : (m.readBytes a n).length = n := by
  induction n generalizing a with
  | zero => rfl
  | succ n ih => simp [readBytes, ih]

theorem getElem_readBytes (m : Memory) (a n j : Nat) (h : j < (m.readBytes a n).length) :
    (m.readBytes a n)[j] = m.readByte (a + j) := by
  induction n generalizing a j with
  | zero => simp [readBytes] at h
  | succ n ih =>
    cases j with
    | zero => simp [readBytes]
    | succ j => simp [readBytes, ih, Nat.add_comm 1 j, Nat.add_assoc]

/-- Everything a store of bytes does to reads. -/
theorem readByte_writeBytes (bs : List Byte) (m : Memory) (a a' : Nat) :
    (m.writeBytes a bs).readByte a' = if h : a ≤ a' ∧ a' < a + bs.length then bs[a' - a]'(by omega) else m.readByte a' := by
  induction bs generalizing m a with
  | nil => simp only [writeBytes]; rw [dif_neg (by simp)]
  | cons b bs ih =>
    simp only [writeBytes]
    rw [ih]
    by_cases h : a + 1 ≤ a' ∧ a' < a + 1 + bs.length
    · rw [dif_pos h, dif_pos (by simp; omega)]
      have e : a' - a = (a' - (a + 1)) + 1 := by omega
      simp [e]
    · rw [dif_neg h, readByte_writeByte]
      by_cases e : a' = a
      · subst e; simp
      · rw [if_neg e, dif_neg (by simp; omega)]

theorem writeBytes_wf (bs : List Byte) (m : Memory) (a : Nat) (ha : a + bs.length ≤ 4096) (hm : wf m = true) :
    wf (m.writeBytes a bs) = true := by
  induction bs generalizing m a with
  | nil => exact hm
  | cons b bs ih =>
    simp only [List.length_cons] at ha
    exact ih _ _ (by omega) (writeByte_wf m a b (by omega) hm)

theorem mem_writeBytes (bs : List Byte) (m : Memory) (a : Nat) (d : Host.Cell) (h : d ∈ m.writeBytes a bs) :
    (a ≤ d.1 ∧ d.1 < a + bs.length) ∨ d ∈ m := by
  induction bs generalizing m a with
  | nil => exact .inr h
  | cons b bs ih =>
    rcases ih _ _ h with h | h
    · left; simp; omega
    · rcases mem_writeByte m a b d h with h | h
      · left; simp; omega
      · exact .inr h

end Sys2Proof.Machine.Memory
end

