-- ==== Sys2Proof/Laws/State.lean ====
section
/-! SUPPORT. One lemma per field per update of the state, true by `rfl`, so that no proof unfolds a record update. -/

namespace Sys2Proof.Machine.State

variable (s : State)

/-! setReg -/

@[simp] theorem setReg_mem (x : RegNum) (b : Byte) : (s.setReg x b).mem = s.mem := rfl
@[simp] theorem setReg_v (x : RegNum) (b : Byte) : (s.setReg x b).v = s.v.set x.toNat b x.isLt := rfl
@[simp] theorem setReg_i (x : RegNum) (b : Byte) : (s.setReg x b).i = s.i := rfl
@[simp] theorem setReg_pc (x : RegNum) (b : Byte) : (s.setReg x b).pc = s.pc := rfl
@[simp] theorem setReg_sp (x : RegNum) (b : Byte) : (s.setReg x b).sp = s.sp := rfl
@[simp] theorem setReg_stack (x : RegNum) (b : Byte) : (s.setReg x b).stack = s.stack := rfl
@[simp] theorem setReg_dt (x : RegNum) (b : Byte) : (s.setReg x b).dt = s.dt := rfl
@[simp] theorem setReg_st (x : RegNum) (b : Byte) : (s.setReg x b).st = s.st := rfl
@[simp] theorem setReg_screen (x : RegNum) (b : Byte) : (s.setReg x b).screen = s.screen := rfl
@[simp] theorem setReg_keys (x : RegNum) (b : Byte) : (s.setReg x b).keys = s.keys := rfl
@[simp] theorem setReg_lastKeys (x : RegNum) (b : Byte) : (s.setReg x b).lastKeys = s.lastKeys := rfl
@[simp] theorem setReg_fault (x : RegNum) (b : Byte) : (s.setReg x b).fault = s.fault := rfl
@[simp] theorem setReg_instrAcc (x : RegNum) (b : Byte) : (s.setReg x b).instrAcc = s.instrAcc := rfl
@[simp] theorem setReg_timerAcc (x : RegNum) (b : Byte) : (s.setReg x b).timerAcc = s.timerAcc := rfl
@[simp] theorem setReg_call (x : RegNum) (b : Byte) : (s.setReg x b).call = s.call := rfl
@[simp] theorem setReg_sched (x : RegNum) (b : Byte) : (s.setReg x b).sched = s.sched := rfl
@[simp] theorem setReg_sink (x : RegNum) (b : Byte) : (s.setReg x b).sink = s.sink := rfl
@[simp] theorem setReg_draws (x : RegNum) (b : Byte) : (s.setReg x b).draws = s.draws := rfl
@[simp] theorem setReg_keyDown (x : RegNum) (b : Byte) (key : BitVec 4) : (s.setReg x b).keyDown key = s.keyDown key := rfl
@[simp] theorem setReg_lastKeyDown (x : RegNum) (b : Byte) (key : BitVec 4) : (s.setReg x b).lastKeyDown key = s.lastKeyDown key := rfl
@[simp] theorem setReg_dataAddr (x : RegNum) (b : Byte) : (s.setReg x b).dataAddr = s.dataAddr := rfl

/-! setI -/

@[simp] theorem setI_mem (w : Word) : (s.setI w).mem = s.mem := rfl
@[simp] theorem setI_v (w : Word) : (s.setI w).v = s.v := rfl
@[simp] theorem setI_i (w : Word) : (s.setI w).i = w := rfl
@[simp] theorem setI_pc (w : Word) : (s.setI w).pc = s.pc := rfl
@[simp] theorem setI_sp (w : Word) : (s.setI w).sp = s.sp := rfl
@[simp] theorem setI_stack (w : Word) : (s.setI w).stack = s.stack := rfl
@[simp] theorem setI_dt (w : Word) : (s.setI w).dt = s.dt := rfl
@[simp] theorem setI_st (w : Word) : (s.setI w).st = s.st := rfl
@[simp] theorem setI_screen (w : Word) : (s.setI w).screen = s.screen := rfl
@[simp] theorem setI_keys (w : Word) : (s.setI w).keys = s.keys := rfl
@[simp] theorem setI_lastKeys (w : Word) : (s.setI w).lastKeys = s.lastKeys := rfl
@[simp] theorem setI_fault (w : Word) : (s.setI w).fault = s.fault := rfl
@[simp] theorem setI_instrAcc (w : Word) : (s.setI w).instrAcc = s.instrAcc := rfl
@[simp] theorem setI_timerAcc (w : Word) : (s.setI w).timerAcc = s.timerAcc := rfl
@[simp] theorem setI_call (w : Word) : (s.setI w).call = s.call := rfl
@[simp] theorem setI_sched (w : Word) : (s.setI w).sched = s.sched := rfl
@[simp] theorem setI_sink (w : Word) : (s.setI w).sink = s.sink := rfl
@[simp] theorem setI_draws (w : Word) : (s.setI w).draws = s.draws := rfl
@[simp] theorem setI_reg (w : Word) (rn : RegNum) : (s.setI w).reg rn = s.reg rn := rfl
@[simp] theorem setI_keyDown (w : Word) (key : BitVec 4) : (s.setI w).keyDown key = s.keyDown key := rfl
@[simp] theorem setI_lastKeyDown (w : Word) (key : BitVec 4) : (s.setI w).lastKeyDown key = s.lastKeyDown key := rfl

/-! setPc -/

@[simp] theorem setPc_mem (w : Word) : (s.setPc w).mem = s.mem := rfl
@[simp] theorem setPc_v (w : Word) : (s.setPc w).v = s.v := rfl
@[simp] theorem setPc_i (w : Word) : (s.setPc w).i = s.i := rfl
@[simp] theorem setPc_pc (w : Word) : (s.setPc w).pc = w := rfl
@[simp] theorem setPc_sp (w : Word) : (s.setPc w).sp = s.sp := rfl
@[simp] theorem setPc_stack (w : Word) : (s.setPc w).stack = s.stack := rfl
@[simp] theorem setPc_dt (w : Word) : (s.setPc w).dt = s.dt := rfl
@[simp] theorem setPc_st (w : Word) : (s.setPc w).st = s.st := rfl
@[simp] theorem setPc_screen (w : Word) : (s.setPc w).screen = s.screen := rfl
@[simp] theorem setPc_keys (w : Word) : (s.setPc w).keys = s.keys := rfl
@[simp] theorem setPc_lastKeys (w : Word) : (s.setPc w).lastKeys = s.lastKeys := rfl
@[simp] theorem setPc_fault (w : Word) : (s.setPc w).fault = s.fault := rfl
@[simp] theorem setPc_instrAcc (w : Word) : (s.setPc w).instrAcc = s.instrAcc := rfl
@[simp] theorem setPc_timerAcc (w : Word) : (s.setPc w).timerAcc = s.timerAcc := rfl
@[simp] theorem setPc_call (w : Word) : (s.setPc w).call = s.call := rfl
@[simp] theorem setPc_sched (w : Word) : (s.setPc w).sched = s.sched := rfl
@[simp] theorem setPc_sink (w : Word) : (s.setPc w).sink = s.sink := rfl
@[simp] theorem setPc_draws (w : Word) : (s.setPc w).draws = s.draws := rfl
@[simp] theorem setPc_reg (w : Word) (rn : RegNum) : (s.setPc w).reg rn = s.reg rn := rfl
@[simp] theorem setPc_keyDown (w : Word) (key : BitVec 4) : (s.setPc w).keyDown key = s.keyDown key := rfl
@[simp] theorem setPc_lastKeyDown (w : Word) (key : BitVec 4) : (s.setPc w).lastKeyDown key = s.lastKeyDown key := rfl
@[simp] theorem setPc_dataAddr (w : Word) : (s.setPc w).dataAddr = s.dataAddr := rfl

/-! setDt -/

@[simp] theorem setDt_mem (b : Byte) : (s.setDt b).mem = s.mem := rfl
@[simp] theorem setDt_v (b : Byte) : (s.setDt b).v = s.v := rfl
@[simp] theorem setDt_i (b : Byte) : (s.setDt b).i = s.i := rfl
@[simp] theorem setDt_pc (b : Byte) : (s.setDt b).pc = s.pc := rfl
@[simp] theorem setDt_sp (b : Byte) : (s.setDt b).sp = s.sp := rfl
@[simp] theorem setDt_stack (b : Byte) : (s.setDt b).stack = s.stack := rfl
@[simp] theorem setDt_dt (b : Byte) : (s.setDt b).dt = b := rfl
@[simp] theorem setDt_st (b : Byte) : (s.setDt b).st = s.st := rfl
@[simp] theorem setDt_screen (b : Byte) : (s.setDt b).screen = s.screen := rfl
@[simp] theorem setDt_keys (b : Byte) : (s.setDt b).keys = s.keys := rfl
@[simp] theorem setDt_lastKeys (b : Byte) : (s.setDt b).lastKeys = s.lastKeys := rfl
@[simp] theorem setDt_fault (b : Byte) : (s.setDt b).fault = s.fault := rfl
@[simp] theorem setDt_instrAcc (b : Byte) : (s.setDt b).instrAcc = s.instrAcc := rfl
@[simp] theorem setDt_timerAcc (b : Byte) : (s.setDt b).timerAcc = s.timerAcc := rfl
@[simp] theorem setDt_call (b : Byte) : (s.setDt b).call = s.call := rfl
@[simp] theorem setDt_sched (b : Byte) : (s.setDt b).sched = s.sched := rfl
@[simp] theorem setDt_sink (b : Byte) : (s.setDt b).sink = s.sink := rfl
@[simp] theorem setDt_draws (b : Byte) : (s.setDt b).draws = s.draws := rfl
@[simp] theorem setDt_reg (b : Byte) (rn : RegNum) : (s.setDt b).reg rn = s.reg rn := rfl
@[simp] theorem setDt_keyDown (b : Byte) (key : BitVec 4) : (s.setDt b).keyDown key = s.keyDown key := rfl
@[simp] theorem setDt_lastKeyDown (b : Byte) (key : BitVec 4) : (s.setDt b).lastKeyDown key = s.lastKeyDown key := rfl
@[simp] theorem setDt_dataAddr (b : Byte) : (s.setDt b).dataAddr = s.dataAddr := rfl

/-! setSt -/

@[simp] theorem setSt_mem (b : Byte) : (s.setSt b).mem = s.mem := rfl
@[simp] theorem setSt_v (b : Byte) : (s.setSt b).v = s.v := rfl
@[simp] theorem setSt_i (b : Byte) : (s.setSt b).i = s.i := rfl
@[simp] theorem setSt_pc (b : Byte) : (s.setSt b).pc = s.pc := rfl
@[simp] theorem setSt_sp (b : Byte) : (s.setSt b).sp = s.sp := rfl
@[simp] theorem setSt_stack (b : Byte) : (s.setSt b).stack = s.stack := rfl
@[simp] theorem setSt_dt (b : Byte) : (s.setSt b).dt = s.dt := rfl
@[simp] theorem setSt_st (b : Byte) : (s.setSt b).st = b := rfl
@[simp] theorem setSt_screen (b : Byte) : (s.setSt b).screen = s.screen := rfl
@[simp] theorem setSt_keys (b : Byte) : (s.setSt b).keys = s.keys := rfl
@[simp] theorem setSt_lastKeys (b : Byte) : (s.setSt b).lastKeys = s.lastKeys := rfl
@[simp] theorem setSt_fault (b : Byte) : (s.setSt b).fault = s.fault := rfl
@[simp] theorem setSt_instrAcc (b : Byte) : (s.setSt b).instrAcc = s.instrAcc := rfl
@[simp] theorem setSt_timerAcc (b : Byte) : (s.setSt b).timerAcc = s.timerAcc := rfl
@[simp] theorem setSt_call (b : Byte) : (s.setSt b).call = s.call := rfl
@[simp] theorem setSt_sched (b : Byte) : (s.setSt b).sched = s.sched := rfl
@[simp] theorem setSt_sink (b : Byte) : (s.setSt b).sink = s.sink := rfl
@[simp] theorem setSt_draws (b : Byte) : (s.setSt b).draws = s.draws := rfl
@[simp] theorem setSt_reg (b : Byte) (rn : RegNum) : (s.setSt b).reg rn = s.reg rn := rfl
@[simp] theorem setSt_keyDown (b : Byte) (key : BitVec 4) : (s.setSt b).keyDown key = s.keyDown key := rfl
@[simp] theorem setSt_lastKeyDown (b : Byte) (key : BitVec 4) : (s.setSt b).lastKeyDown key = s.lastKeyDown key := rfl
@[simp] theorem setSt_dataAddr (b : Byte) : (s.setSt b).dataAddr = s.dataAddr := rfl

/-! setMem -/

@[simp] theorem setMem_mem (m : Memory) : (s.setMem m).mem = m := rfl
@[simp] theorem setMem_v (m : Memory) : (s.setMem m).v = s.v := rfl
@[simp] theorem setMem_i (m : Memory) : (s.setMem m).i = s.i := rfl
@[simp] theorem setMem_pc (m : Memory) : (s.setMem m).pc = s.pc := rfl
@[simp] theorem setMem_sp (m : Memory) : (s.setMem m).sp = s.sp := rfl
@[simp] theorem setMem_stack (m : Memory) : (s.setMem m).stack = s.stack := rfl
@[simp] theorem setMem_dt (m : Memory) : (s.setMem m).dt = s.dt := rfl
@[simp] theorem setMem_st (m : Memory) : (s.setMem m).st = s.st := rfl
@[simp] theorem setMem_screen (m : Memory) : (s.setMem m).screen = s.screen := rfl
@[simp] theorem setMem_keys (m : Memory) : (s.setMem m).keys = s.keys := rfl
@[simp] theorem setMem_lastKeys (m : Memory) : (s.setMem m).lastKeys = s.lastKeys := rfl
@[simp] theorem setMem_fault (m : Memory) : (s.setMem m).fault = s.fault := rfl
@[simp] theorem setMem_instrAcc (m : Memory) : (s.setMem m).instrAcc = s.instrAcc := rfl
@[simp] theorem setMem_timerAcc (m : Memory) : (s.setMem m).timerAcc = s.timerAcc := rfl
@[simp] theorem setMem_call (m : Memory) : (s.setMem m).call = s.call := rfl
@[simp] theorem setMem_sched (m : Memory) : (s.setMem m).sched = s.sched := rfl
@[simp] theorem setMem_sink (m : Memory) : (s.setMem m).sink = s.sink := rfl
@[simp] theorem setMem_draws (m : Memory) : (s.setMem m).draws = s.draws := rfl
@[simp] theorem setMem_reg (m : Memory) (rn : RegNum) : (s.setMem m).reg rn = s.reg rn := rfl
@[simp] theorem setMem_keyDown (m : Memory) (key : BitVec 4) : (s.setMem m).keyDown key = s.keyDown key := rfl
@[simp] theorem setMem_lastKeyDown (m : Memory) (key : BitVec 4) : (s.setMem m).lastKeyDown key = s.lastKeyDown key := rfl
@[simp] theorem setMem_dataAddr (m : Memory) : (s.setMem m).dataAddr = s.dataAddr := rfl

/-! setScreen -/

@[simp] theorem setScreen_mem (scr : Vector Byte 256) : (s.setScreen scr).mem = s.mem := rfl
@[simp] theorem setScreen_v (scr : Vector Byte 256) : (s.setScreen scr).v = s.v := rfl
@[simp] theorem setScreen_i (scr : Vector Byte 256) : (s.setScreen scr).i = s.i := rfl
@[simp] theorem setScreen_pc (scr : Vector Byte 256) : (s.setScreen scr).pc = s.pc := rfl
@[simp] theorem setScreen_sp (scr : Vector Byte 256) : (s.setScreen scr).sp = s.sp := rfl
@[simp] theorem setScreen_stack (scr : Vector Byte 256) : (s.setScreen scr).stack = s.stack := rfl
@[simp] theorem setScreen_dt (scr : Vector Byte 256) : (s.setScreen scr).dt = s.dt := rfl
@[simp] theorem setScreen_st (scr : Vector Byte 256) : (s.setScreen scr).st = s.st := rfl
@[simp] theorem setScreen_screen (scr : Vector Byte 256) : (s.setScreen scr).screen = scr := rfl
@[simp] theorem setScreen_keys (scr : Vector Byte 256) : (s.setScreen scr).keys = s.keys := rfl
@[simp] theorem setScreen_lastKeys (scr : Vector Byte 256) : (s.setScreen scr).lastKeys = s.lastKeys := rfl
@[simp] theorem setScreen_fault (scr : Vector Byte 256) : (s.setScreen scr).fault = s.fault := rfl
@[simp] theorem setScreen_instrAcc (scr : Vector Byte 256) : (s.setScreen scr).instrAcc = s.instrAcc := rfl
@[simp] theorem setScreen_timerAcc (scr : Vector Byte 256) : (s.setScreen scr).timerAcc = s.timerAcc := rfl
@[simp] theorem setScreen_call (scr : Vector Byte 256) : (s.setScreen scr).call = s.call := rfl
@[simp] theorem setScreen_sched (scr : Vector Byte 256) : (s.setScreen scr).sched = s.sched := rfl
@[simp] theorem setScreen_sink (scr : Vector Byte 256) : (s.setScreen scr).sink = s.sink := rfl
@[simp] theorem setScreen_draws (scr : Vector Byte 256) : (s.setScreen scr).draws = s.draws := rfl
@[simp] theorem setScreen_reg (scr : Vector Byte 256) (rn : RegNum) : (s.setScreen scr).reg rn = s.reg rn := rfl
@[simp] theorem setScreen_keyDown (scr : Vector Byte 256) (key : BitVec 4) : (s.setScreen scr).keyDown key = s.keyDown key := rfl
@[simp] theorem setScreen_lastKeyDown (scr : Vector Byte 256) (key : BitVec 4) : (s.setScreen scr).lastKeyDown key = s.lastKeyDown key := rfl
@[simp] theorem setScreen_dataAddr (scr : Vector Byte 256) : (s.setScreen scr).dataAddr = s.dataAddr := rfl

/-! countDraw -/

@[simp] theorem countDraw_mem : (s.countDraw).mem = s.mem := rfl
@[simp] theorem countDraw_v : (s.countDraw).v = s.v := rfl
@[simp] theorem countDraw_i : (s.countDraw).i = s.i := rfl
@[simp] theorem countDraw_pc : (s.countDraw).pc = s.pc := rfl
@[simp] theorem countDraw_sp : (s.countDraw).sp = s.sp := rfl
@[simp] theorem countDraw_stack : (s.countDraw).stack = s.stack := rfl
@[simp] theorem countDraw_dt : (s.countDraw).dt = s.dt := rfl
@[simp] theorem countDraw_st : (s.countDraw).st = s.st := rfl
@[simp] theorem countDraw_screen : (s.countDraw).screen = s.screen := rfl
@[simp] theorem countDraw_keys : (s.countDraw).keys = s.keys := rfl
@[simp] theorem countDraw_lastKeys : (s.countDraw).lastKeys = s.lastKeys := rfl
@[simp] theorem countDraw_fault : (s.countDraw).fault = s.fault := rfl
@[simp] theorem countDraw_instrAcc : (s.countDraw).instrAcc = s.instrAcc := rfl
@[simp] theorem countDraw_timerAcc : (s.countDraw).timerAcc = s.timerAcc := rfl
@[simp] theorem countDraw_call : (s.countDraw).call = s.call := rfl
@[simp] theorem countDraw_sched : (s.countDraw).sched = s.sched := rfl
@[simp] theorem countDraw_sink : (s.countDraw).sink = s.sink := rfl
@[simp] theorem countDraw_draws : (s.countDraw).draws = s.draws + 1 := rfl
@[simp] theorem countDraw_reg (rn : RegNum) : (s.countDraw).reg rn = s.reg rn := rfl
@[simp] theorem countDraw_keyDown (key : BitVec 4) : (s.countDraw).keyDown key = s.keyDown key := rfl
@[simp] theorem countDraw_lastKeyDown (key : BitVec 4) : (s.countDraw).lastKeyDown key = s.lastKeyDown key := rfl
@[simp] theorem countDraw_dataAddr  : (s.countDraw).dataAddr = s.dataAddr := rfl

/-! setSched -/

@[simp] theorem setSched_mem (c : Scheduler) : (s.setSched c).mem = s.mem := rfl
@[simp] theorem setSched_v (c : Scheduler) : (s.setSched c).v = s.v := rfl
@[simp] theorem setSched_i (c : Scheduler) : (s.setSched c).i = s.i := rfl
@[simp] theorem setSched_pc (c : Scheduler) : (s.setSched c).pc = s.pc := rfl
@[simp] theorem setSched_sp (c : Scheduler) : (s.setSched c).sp = s.sp := rfl
@[simp] theorem setSched_stack (c : Scheduler) : (s.setSched c).stack = s.stack := rfl
@[simp] theorem setSched_dt (c : Scheduler) : (s.setSched c).dt = s.dt := rfl
@[simp] theorem setSched_st (c : Scheduler) : (s.setSched c).st = s.st := rfl
@[simp] theorem setSched_screen (c : Scheduler) : (s.setSched c).screen = s.screen := rfl
@[simp] theorem setSched_keys (c : Scheduler) : (s.setSched c).keys = s.keys := rfl
@[simp] theorem setSched_lastKeys (c : Scheduler) : (s.setSched c).lastKeys = s.lastKeys := rfl
@[simp] theorem setSched_fault (c : Scheduler) : (s.setSched c).fault = s.fault := rfl
@[simp] theorem setSched_instrAcc (c : Scheduler) : (s.setSched c).instrAcc = s.instrAcc := rfl
@[simp] theorem setSched_timerAcc (c : Scheduler) : (s.setSched c).timerAcc = s.timerAcc := rfl
@[simp] theorem setSched_call (c : Scheduler) : (s.setSched c).call = s.call := rfl
@[simp] theorem setSched_sched (c : Scheduler) : (s.setSched c).sched = c := rfl
@[simp] theorem setSched_sink (c : Scheduler) : (s.setSched c).sink = s.sink := rfl
@[simp] theorem setSched_draws (c : Scheduler) : (s.setSched c).draws = s.draws := rfl
@[simp] theorem setSched_reg (c : Scheduler) (rn : RegNum) : (s.setSched c).reg rn = s.reg rn := rfl
@[simp] theorem setSched_keyDown (c : Scheduler) (key : BitVec 4) : (s.setSched c).keyDown key = s.keyDown key := rfl
@[simp] theorem setSched_lastKeyDown (c : Scheduler) (key : BitVec 4) : (s.setSched c).lastKeyDown key = s.lastKeyDown key := rfl
@[simp] theorem setSched_dataAddr (c : Scheduler) : (s.setSched c).dataAddr = s.dataAddr := rfl

/-! setSink -/

@[simp] theorem setSink_mem (k : Sink) : (s.setSink k).mem = s.mem := rfl
@[simp] theorem setSink_v (k : Sink) : (s.setSink k).v = s.v := rfl
@[simp] theorem setSink_i (k : Sink) : (s.setSink k).i = s.i := rfl
@[simp] theorem setSink_pc (k : Sink) : (s.setSink k).pc = s.pc := rfl
@[simp] theorem setSink_sp (k : Sink) : (s.setSink k).sp = s.sp := rfl
@[simp] theorem setSink_stack (k : Sink) : (s.setSink k).stack = s.stack := rfl
@[simp] theorem setSink_dt (k : Sink) : (s.setSink k).dt = s.dt := rfl
@[simp] theorem setSink_st (k : Sink) : (s.setSink k).st = s.st := rfl
@[simp] theorem setSink_screen (k : Sink) : (s.setSink k).screen = s.screen := rfl
@[simp] theorem setSink_keys (k : Sink) : (s.setSink k).keys = s.keys := rfl
@[simp] theorem setSink_lastKeys (k : Sink) : (s.setSink k).lastKeys = s.lastKeys := rfl
@[simp] theorem setSink_fault (k : Sink) : (s.setSink k).fault = s.fault := rfl
@[simp] theorem setSink_instrAcc (k : Sink) : (s.setSink k).instrAcc = s.instrAcc := rfl
@[simp] theorem setSink_timerAcc (k : Sink) : (s.setSink k).timerAcc = s.timerAcc := rfl
@[simp] theorem setSink_call (k : Sink) : (s.setSink k).call = s.call := rfl
@[simp] theorem setSink_sched (k : Sink) : (s.setSink k).sched = s.sched := rfl
@[simp] theorem setSink_sink (k : Sink) : (s.setSink k).sink = k := rfl
@[simp] theorem setSink_draws (k : Sink) : (s.setSink k).draws = s.draws := rfl
@[simp] theorem setSink_reg (k : Sink) (rn : RegNum) : (s.setSink k).reg rn = s.reg rn := rfl
@[simp] theorem setSink_keyDown (k : Sink) (key : BitVec 4) : (s.setSink k).keyDown key = s.keyDown key := rfl
@[simp] theorem setSink_lastKeyDown (k : Sink) (key : BitVec 4) : (s.setSink k).lastKeyDown key = s.lastKeyDown key := rfl
@[simp] theorem setSink_dataAddr (k : Sink) : (s.setSink k).dataAddr = s.dataAddr := rfl

/-! setKeys -/

@[simp] theorem setKeys_mem (k : Vector Bool 16) : (s.setKeys k).mem = s.mem := rfl
@[simp] theorem setKeys_v (k : Vector Bool 16) : (s.setKeys k).v = s.v := rfl
@[simp] theorem setKeys_i (k : Vector Bool 16) : (s.setKeys k).i = s.i := rfl
@[simp] theorem setKeys_pc (k : Vector Bool 16) : (s.setKeys k).pc = s.pc := rfl
@[simp] theorem setKeys_sp (k : Vector Bool 16) : (s.setKeys k).sp = s.sp := rfl
@[simp] theorem setKeys_stack (k : Vector Bool 16) : (s.setKeys k).stack = s.stack := rfl
@[simp] theorem setKeys_dt (k : Vector Bool 16) : (s.setKeys k).dt = s.dt := rfl
@[simp] theorem setKeys_st (k : Vector Bool 16) : (s.setKeys k).st = s.st := rfl
@[simp] theorem setKeys_screen (k : Vector Bool 16) : (s.setKeys k).screen = s.screen := rfl
@[simp] theorem setKeys_keys (k : Vector Bool 16) : (s.setKeys k).keys = k := rfl
@[simp] theorem setKeys_lastKeys (k : Vector Bool 16) : (s.setKeys k).lastKeys = s.lastKeys := rfl
@[simp] theorem setKeys_fault (k : Vector Bool 16) : (s.setKeys k).fault = s.fault := rfl
@[simp] theorem setKeys_instrAcc (k : Vector Bool 16) : (s.setKeys k).instrAcc = s.instrAcc := rfl
@[simp] theorem setKeys_timerAcc (k : Vector Bool 16) : (s.setKeys k).timerAcc = s.timerAcc := rfl
@[simp] theorem setKeys_call (k : Vector Bool 16) : (s.setKeys k).call = s.call := rfl
@[simp] theorem setKeys_sched (k : Vector Bool 16) : (s.setKeys k).sched = s.sched := rfl
@[simp] theorem setKeys_sink (k : Vector Bool 16) : (s.setKeys k).sink = s.sink := rfl
@[simp] theorem setKeys_draws (k : Vector Bool 16) : (s.setKeys k).draws = s.draws := rfl
@[simp] theorem setKeys_reg (k : Vector Bool 16) (rn : RegNum) : (s.setKeys k).reg rn = s.reg rn := rfl
@[simp] theorem setKeys_lastKeyDown (k : Vector Bool 16) (key : BitVec 4) : (s.setKeys k).lastKeyDown key = s.lastKeyDown key := rfl
@[simp] theorem setKeys_dataAddr (k : Vector Bool 16) : (s.setKeys k).dataAddr = s.dataAddr := rfl

/-! setCall -/

@[simp] theorem setCall_mem (c : Option StepCall) : (s.setCall c).mem = s.mem := rfl
@[simp] theorem setCall_v (c : Option StepCall) : (s.setCall c).v = s.v := rfl
@[simp] theorem setCall_i (c : Option StepCall) : (s.setCall c).i = s.i := rfl
@[simp] theorem setCall_pc (c : Option StepCall) : (s.setCall c).pc = s.pc := rfl
@[simp] theorem setCall_sp (c : Option StepCall) : (s.setCall c).sp = s.sp := rfl
@[simp] theorem setCall_stack (c : Option StepCall) : (s.setCall c).stack = s.stack := rfl
@[simp] theorem setCall_dt (c : Option StepCall) : (s.setCall c).dt = s.dt := rfl
@[simp] theorem setCall_st (c : Option StepCall) : (s.setCall c).st = s.st := rfl
@[simp] theorem setCall_screen (c : Option StepCall) : (s.setCall c).screen = s.screen := rfl
@[simp] theorem setCall_keys (c : Option StepCall) : (s.setCall c).keys = s.keys := rfl
@[simp] theorem setCall_lastKeys (c : Option StepCall) : (s.setCall c).lastKeys = s.lastKeys := rfl
@[simp] theorem setCall_fault (c : Option StepCall) : (s.setCall c).fault = s.fault := rfl
@[simp] theorem setCall_instrAcc (c : Option StepCall) : (s.setCall c).instrAcc = s.instrAcc := rfl
@[simp] theorem setCall_timerAcc (c : Option StepCall) : (s.setCall c).timerAcc = s.timerAcc := rfl
@[simp] theorem setCall_call (c : Option StepCall) : (s.setCall c).call = c := rfl
@[simp] theorem setCall_sched (c : Option StepCall) : (s.setCall c).sched = s.sched := rfl
@[simp] theorem setCall_sink (c : Option StepCall) : (s.setCall c).sink = s.sink := rfl
@[simp] theorem setCall_draws (c : Option StepCall) : (s.setCall c).draws = s.draws := rfl
@[simp] theorem setCall_reg (c : Option StepCall) (rn : RegNum) : (s.setCall c).reg rn = s.reg rn := rfl
@[simp] theorem setCall_keyDown (c : Option StepCall) (key : BitVec 4) : (s.setCall c).keyDown key = s.keyDown key := rfl
@[simp] theorem setCall_lastKeyDown (c : Option StepCall) (key : BitVec 4) : (s.setCall c).lastKeyDown key = s.lastKeyDown key := rfl
@[simp] theorem setCall_dataAddr (c : Option StepCall) : (s.setCall c).dataAddr = s.dataAddr := rfl

/-! setInstrAcc -/

@[simp] theorem setInstrAcc_mem (q : Rat) : (s.setInstrAcc q).mem = s.mem := rfl
@[simp] theorem setInstrAcc_v (q : Rat) : (s.setInstrAcc q).v = s.v := rfl
@[simp] theorem setInstrAcc_i (q : Rat) : (s.setInstrAcc q).i = s.i := rfl
@[simp] theorem setInstrAcc_pc (q : Rat) : (s.setInstrAcc q).pc = s.pc := rfl
@[simp] theorem setInstrAcc_sp (q : Rat) : (s.setInstrAcc q).sp = s.sp := rfl
@[simp] theorem setInstrAcc_stack (q : Rat) : (s.setInstrAcc q).stack = s.stack := rfl
@[simp] theorem setInstrAcc_dt (q : Rat) : (s.setInstrAcc q).dt = s.dt := rfl
@[simp] theorem setInstrAcc_st (q : Rat) : (s.setInstrAcc q).st = s.st := rfl
@[simp] theorem setInstrAcc_screen (q : Rat) : (s.setInstrAcc q).screen = s.screen := rfl
@[simp] theorem setInstrAcc_keys (q : Rat) : (s.setInstrAcc q).keys = s.keys := rfl
@[simp] theorem setInstrAcc_lastKeys (q : Rat) : (s.setInstrAcc q).lastKeys = s.lastKeys := rfl
@[simp] theorem setInstrAcc_fault (q : Rat) : (s.setInstrAcc q).fault = s.fault := rfl
@[simp] theorem setInstrAcc_instrAcc (q : Rat) : (s.setInstrAcc q).instrAcc = q := rfl
@[simp] theorem setInstrAcc_timerAcc (q : Rat) : (s.setInstrAcc q).timerAcc = s.timerAcc := rfl
@[simp] theorem setInstrAcc_call (q : Rat) : (s.setInstrAcc q).call = s.call := rfl
@[simp] theorem setInstrAcc_sched (q : Rat) : (s.setInstrAcc q).sched = s.sched := rfl
@[simp] theorem setInstrAcc_sink (q : Rat) : (s.setInstrAcc q).sink = s.sink := rfl
@[simp] theorem setInstrAcc_draws (q : Rat) : (s.setInstrAcc q).draws = s.draws := rfl
@[simp] theorem setInstrAcc_reg (q : Rat) (rn : RegNum) : (s.setInstrAcc q).reg rn = s.reg rn := rfl
@[simp] theorem setInstrAcc_keyDown (q : Rat) (key : BitVec 4) : (s.setInstrAcc q).keyDown key = s.keyDown key := rfl
@[simp] theorem setInstrAcc_lastKeyDown (q : Rat) (key : BitVec 4) : (s.setInstrAcc q).lastKeyDown key = s.lastKeyDown key := rfl
@[simp] theorem setInstrAcc_dataAddr (q : Rat) : (s.setInstrAcc q).dataAddr = s.dataAddr := rfl

/-! setTimerAcc -/

@[simp] theorem setTimerAcc_mem (q : Rat) : (s.setTimerAcc q).mem = s.mem := rfl
@[simp] theorem setTimerAcc_v (q : Rat) : (s.setTimerAcc q).v = s.v := rfl
@[simp] theorem setTimerAcc_i (q : Rat) : (s.setTimerAcc q).i = s.i := rfl
@[simp] theorem setTimerAcc_pc (q : Rat) : (s.setTimerAcc q).pc = s.pc := rfl
@[simp] theorem setTimerAcc_sp (q : Rat) : (s.setTimerAcc q).sp = s.sp := rfl
@[simp] theorem setTimerAcc_stack (q : Rat) : (s.setTimerAcc q).stack = s.stack := rfl
@[simp] theorem setTimerAcc_dt (q : Rat) : (s.setTimerAcc q).dt = s.dt := rfl
@[simp] theorem setTimerAcc_st (q : Rat) : (s.setTimerAcc q).st = s.st := rfl
@[simp] theorem setTimerAcc_screen (q : Rat) : (s.setTimerAcc q).screen = s.screen := rfl
@[simp] theorem setTimerAcc_keys (q : Rat) : (s.setTimerAcc q).keys = s.keys := rfl
@[simp] theorem setTimerAcc_lastKeys (q : Rat) : (s.setTimerAcc q).lastKeys = s.lastKeys := rfl
@[simp] theorem setTimerAcc_fault (q : Rat) : (s.setTimerAcc q).fault = s.fault := rfl
@[simp] theorem setTimerAcc_instrAcc (q : Rat) : (s.setTimerAcc q).instrAcc = s.instrAcc := rfl
@[simp] theorem setTimerAcc_timerAcc (q : Rat) : (s.setTimerAcc q).timerAcc = q := rfl
@[simp] theorem setTimerAcc_call (q : Rat) : (s.setTimerAcc q).call = s.call := rfl
@[simp] theorem setTimerAcc_sched (q : Rat) : (s.setTimerAcc q).sched = s.sched := rfl
@[simp] theorem setTimerAcc_sink (q : Rat) : (s.setTimerAcc q).sink = s.sink := rfl
@[simp] theorem setTimerAcc_draws (q : Rat) : (s.setTimerAcc q).draws = s.draws := rfl
@[simp] theorem setTimerAcc_reg (q : Rat) (rn : RegNum) : (s.setTimerAcc q).reg rn = s.reg rn := rfl
@[simp] theorem setTimerAcc_keyDown (q : Rat) (key : BitVec 4) : (s.setTimerAcc q).keyDown key = s.keyDown key := rfl
@[simp] theorem setTimerAcc_lastKeyDown (q : Rat) (key : BitVec 4) : (s.setTimerAcc q).lastKeyDown key = s.lastKeyDown key := rfl
@[simp] theorem setTimerAcc_dataAddr (q : Rat) : (s.setTimerAcc q).dataAddr = s.dataAddr := rfl

/-! raise -/

@[simp] theorem raise_mem (f : Fault) : (s.raise f).mem = s.mem := rfl
@[simp] theorem raise_v (f : Fault) : (s.raise f).v = s.v := rfl
@[simp] theorem raise_i (f : Fault) : (s.raise f).i = s.i := rfl
@[simp] theorem raise_pc (f : Fault) : (s.raise f).pc = s.pc := rfl
@[simp] theorem raise_sp (f : Fault) : (s.raise f).sp = s.sp := rfl
@[simp] theorem raise_stack (f : Fault) : (s.raise f).stack = s.stack := rfl
@[simp] theorem raise_dt (f : Fault) : (s.raise f).dt = s.dt := rfl
@[simp] theorem raise_st (f : Fault) : (s.raise f).st = s.st := rfl
@[simp] theorem raise_screen (f : Fault) : (s.raise f).screen = s.screen := rfl
@[simp] theorem raise_keys (f : Fault) : (s.raise f).keys = s.keys := rfl
@[simp] theorem raise_lastKeys (f : Fault) : (s.raise f).lastKeys = s.lastKeys := rfl
@[simp] theorem raise_fault (f : Fault) : (s.raise f).fault = some f := rfl
@[simp] theorem raise_instrAcc (f : Fault) : (s.raise f).instrAcc = s.instrAcc := rfl
@[simp] theorem raise_timerAcc (f : Fault) : (s.raise f).timerAcc = s.timerAcc := rfl
@[simp] theorem raise_call (f : Fault) : (s.raise f).call = s.call := rfl
@[simp] theorem raise_sched (f : Fault) : (s.raise f).sched = s.sched := rfl
@[simp] theorem raise_sink (f : Fault) : (s.raise f).sink = s.sink := rfl
@[simp] theorem raise_draws (f : Fault) : (s.raise f).draws = s.draws := rfl
@[simp] theorem raise_reg (f : Fault) (rn : RegNum) : (s.raise f).reg rn = s.reg rn := rfl
@[simp] theorem raise_keyDown (f : Fault) (key : BitVec 4) : (s.raise f).keyDown key = s.keyDown key := rfl
@[simp] theorem raise_lastKeyDown (f : Fault) (key : BitVec 4) : (s.raise f).lastKeyDown key = s.lastKeyDown key := rfl
@[simp] theorem raise_dataAddr (f : Fault) : (s.raise f).dataAddr = s.dataAddr := rfl

/-! latchKeys -/

@[simp] theorem latchKeys_mem : (s.latchKeys).mem = s.mem := rfl
@[simp] theorem latchKeys_v : (s.latchKeys).v = s.v := rfl
@[simp] theorem latchKeys_i : (s.latchKeys).i = s.i := rfl
@[simp] theorem latchKeys_pc : (s.latchKeys).pc = s.pc := rfl
@[simp] theorem latchKeys_sp : (s.latchKeys).sp = s.sp := rfl
@[simp] theorem latchKeys_stack : (s.latchKeys).stack = s.stack := rfl
@[simp] theorem latchKeys_dt : (s.latchKeys).dt = s.dt := rfl
@[simp] theorem latchKeys_st : (s.latchKeys).st = s.st := rfl
@[simp] theorem latchKeys_screen : (s.latchKeys).screen = s.screen := rfl
@[simp] theorem latchKeys_keys : (s.latchKeys).keys = s.keys := rfl
@[simp] theorem latchKeys_lastKeys : (s.latchKeys).lastKeys = s.keys := rfl
@[simp] theorem latchKeys_fault : (s.latchKeys).fault = s.fault := rfl
@[simp] theorem latchKeys_instrAcc : (s.latchKeys).instrAcc = s.instrAcc := rfl
@[simp] theorem latchKeys_timerAcc : (s.latchKeys).timerAcc = s.timerAcc := rfl
@[simp] theorem latchKeys_call : (s.latchKeys).call = s.call := rfl
@[simp] theorem latchKeys_sched : (s.latchKeys).sched = s.sched := rfl
@[simp] theorem latchKeys_sink : (s.latchKeys).sink = s.sink := rfl
@[simp] theorem latchKeys_draws : (s.latchKeys).draws = s.draws := rfl
@[simp] theorem latchKeys_reg (rn : RegNum) : (s.latchKeys).reg rn = s.reg rn := rfl
@[simp] theorem latchKeys_keyDown (key : BitVec 4) : (s.latchKeys).keyDown key = s.keyDown key := rfl
@[simp] theorem latchKeys_dataAddr  : (s.latchKeys).dataAddr = s.dataAddr := rfl

/-! push -/

@[simp] theorem push_mem (w : Word) (h : s.sp.val < 16) : (s.push w h).mem = s.mem := rfl
@[simp] theorem push_v (w : Word) (h : s.sp.val < 16) : (s.push w h).v = s.v := rfl
@[simp] theorem push_i (w : Word) (h : s.sp.val < 16) : (s.push w h).i = s.i := rfl
@[simp] theorem push_pc (w : Word) (h : s.sp.val < 16) : (s.push w h).pc = s.pc := rfl
@[simp] theorem push_sp (w : Word) (h : s.sp.val < 16) : (s.push w h).sp = ⟨s.sp.val + 1, Nat.succ_lt_succ h⟩ := rfl
@[simp] theorem push_stack (w : Word) (h : s.sp.val < 16) : (s.push w h).stack = s.stack.set s.sp.val w h := rfl
@[simp] theorem push_dt (w : Word) (h : s.sp.val < 16) : (s.push w h).dt = s.dt := rfl
@[simp] theorem push_st (w : Word) (h : s.sp.val < 16) : (s.push w h).st = s.st := rfl
@[simp] theorem push_screen (w : Word) (h : s.sp.val < 16) : (s.push w h).screen = s.screen := rfl
@[simp] theorem push_keys (w : Word) (h : s.sp.val < 16) : (s.push w h).keys = s.keys := rfl
@[simp] theorem push_lastKeys (w : Word) (h : s.sp.val < 16) : (s.push w h).lastKeys = s.lastKeys := rfl
@[simp] theorem push_fault (w : Word) (h : s.sp.val < 16) : (s.push w h).fault = s.fault := rfl
@[simp] theorem push_instrAcc (w : Word) (h : s.sp.val < 16) : (s.push w h).instrAcc = s.instrAcc := rfl
@[simp] theorem push_timerAcc (w : Word) (h : s.sp.val < 16) : (s.push w h).timerAcc = s.timerAcc := rfl
@[simp] theorem push_call (w : Word) (h : s.sp.val < 16) : (s.push w h).call = s.call := rfl
@[simp] theorem push_sched (w : Word) (h : s.sp.val < 16) : (s.push w h).sched = s.sched := rfl
@[simp] theorem push_sink (w : Word) (h : s.sp.val < 16) : (s.push w h).sink = s.sink := rfl
@[simp] theorem push_draws (w : Word) (h : s.sp.val < 16) : (s.push w h).draws = s.draws := rfl
@[simp] theorem push_reg (w : Word) (h : s.sp.val < 16) (rn : RegNum) : (s.push w h).reg rn = s.reg rn := rfl
@[simp] theorem push_keyDown (w : Word) (h : s.sp.val < 16) (key : BitVec 4) : (s.push w h).keyDown key = s.keyDown key := rfl
@[simp] theorem push_lastKeyDown (w : Word) (h : s.sp.val < 16) (key : BitVec 4) : (s.push w h).lastKeyDown key = s.lastKeyDown key := rfl
@[simp] theorem push_dataAddr (w : Word) (h : s.sp.val < 16) : (s.push w h).dataAddr = s.dataAddr := rfl

/-! dropTop -/

@[simp] theorem dropTop_mem : (s.dropTop).mem = s.mem := rfl
@[simp] theorem dropTop_v : (s.dropTop).v = s.v := rfl
@[simp] theorem dropTop_i : (s.dropTop).i = s.i := rfl
@[simp] theorem dropTop_pc : (s.dropTop).pc = s.pc := rfl
@[simp] theorem dropTop_sp : (s.dropTop).sp = ⟨s.sp.val - 1, Nat.lt_of_le_of_lt (Nat.sub_le _ _) s.sp.isLt⟩ := rfl
@[simp] theorem dropTop_stack : (s.dropTop).stack = s.stack := rfl
@[simp] theorem dropTop_dt : (s.dropTop).dt = s.dt := rfl
@[simp] theorem dropTop_st : (s.dropTop).st = s.st := rfl
@[simp] theorem dropTop_screen : (s.dropTop).screen = s.screen := rfl
@[simp] theorem dropTop_keys : (s.dropTop).keys = s.keys := rfl
@[simp] theorem dropTop_lastKeys : (s.dropTop).lastKeys = s.lastKeys := rfl
@[simp] theorem dropTop_fault : (s.dropTop).fault = s.fault := rfl
@[simp] theorem dropTop_instrAcc : (s.dropTop).instrAcc = s.instrAcc := rfl
@[simp] theorem dropTop_timerAcc : (s.dropTop).timerAcc = s.timerAcc := rfl
@[simp] theorem dropTop_call : (s.dropTop).call = s.call := rfl
@[simp] theorem dropTop_sched : (s.dropTop).sched = s.sched := rfl
@[simp] theorem dropTop_sink : (s.dropTop).sink = s.sink := rfl
@[simp] theorem dropTop_draws : (s.dropTop).draws = s.draws := rfl
@[simp] theorem dropTop_reg (rn : RegNum) : (s.dropTop).reg rn = s.reg rn := rfl
@[simp] theorem dropTop_keyDown (key : BitVec 4) : (s.dropTop).keyDown key = s.keyDown key := rfl
@[simp] theorem dropTop_lastKeyDown (key : BitVec 4) : (s.dropTop).lastKeyDown key = s.lastKeyDown key := rfl
@[simp] theorem dropTop_dataAddr  : (s.dropTop).dataAddr = s.dataAddr := rfl

/-! timerTick -/

@[simp] theorem timerTick_mem (q : Rat) : (s.timerTick q).mem = s.mem := rfl
@[simp] theorem timerTick_v (q : Rat) : (s.timerTick q).v = s.v := rfl
@[simp] theorem timerTick_i (q : Rat) : (s.timerTick q).i = s.i := rfl
@[simp] theorem timerTick_pc (q : Rat) : (s.timerTick q).pc = s.pc := rfl
@[simp] theorem timerTick_sp (q : Rat) : (s.timerTick q).sp = s.sp := rfl
@[simp] theorem timerTick_stack (q : Rat) : (s.timerTick q).stack = s.stack := rfl
@[simp] theorem timerTick_dt (q : Rat) : (s.timerTick q).dt = dropTimer s.dt (s.ticksDue q) := rfl
@[simp] theorem timerTick_st (q : Rat) : (s.timerTick q).st = dropTimer s.st (s.ticksDue q) := rfl
@[simp] theorem timerTick_screen (q : Rat) : (s.timerTick q).screen = s.screen := rfl
@[simp] theorem timerTick_keys (q : Rat) : (s.timerTick q).keys = s.keys := rfl
@[simp] theorem timerTick_lastKeys (q : Rat) : (s.timerTick q).lastKeys = s.lastKeys := rfl
@[simp] theorem timerTick_fault (q : Rat) : (s.timerTick q).fault = s.fault := rfl
@[simp] theorem timerTick_instrAcc (q : Rat) : (s.timerTick q).instrAcc = s.instrAcc := rfl
@[simp] theorem timerTick_timerAcc (q : Rat) : (s.timerTick q).timerAcc = fracPart (exactSum s.timerAcc q) := rfl
@[simp] theorem timerTick_call (q : Rat) : (s.timerTick q).call = s.call := rfl
@[simp] theorem timerTick_sched (q : Rat) : (s.timerTick q).sched = s.sched := rfl
@[simp] theorem timerTick_sink (q : Rat) : (s.timerTick q).sink = s.sink := rfl
@[simp] theorem timerTick_draws (q : Rat) : (s.timerTick q).draws = s.draws := rfl
@[simp] theorem timerTick_reg (q : Rat) (rn : RegNum) : (s.timerTick q).reg rn = s.reg rn := rfl
@[simp] theorem timerTick_keyDown (q : Rat) (key : BitVec 4) : (s.timerTick q).keyDown key = s.keyDown key := rfl
@[simp] theorem timerTick_lastKeyDown (q : Rat) (key : BitVec 4) : (s.timerTick q).lastKeyDown key = s.lastKeyDown key := rfl
@[simp] theorem timerTick_dataAddr (q : Rat) : (s.timerTick q).dataAddr = s.dataAddr := rfl

/-! advancePc -/

@[simp] theorem advancePc_mem : (s.advancePc).mem = s.mem := rfl
@[simp] theorem advancePc_v : (s.advancePc).v = s.v := rfl
@[simp] theorem advancePc_i : (s.advancePc).i = s.i := rfl
@[simp] theorem advancePc_pc : (s.advancePc).pc = s.pc + 2#16 := rfl
@[simp] theorem advancePc_sp : (s.advancePc).sp = s.sp := rfl
@[simp] theorem advancePc_stack : (s.advancePc).stack = s.stack := rfl
@[simp] theorem advancePc_dt : (s.advancePc).dt = s.dt := rfl
@[simp] theorem advancePc_st : (s.advancePc).st = s.st := rfl
@[simp] theorem advancePc_screen : (s.advancePc).screen = s.screen := rfl
@[simp] theorem advancePc_keys : (s.advancePc).keys = s.keys := rfl
@[simp] theorem advancePc_lastKeys : (s.advancePc).lastKeys = s.lastKeys := rfl
@[simp] theorem advancePc_fault : (s.advancePc).fault = s.fault := rfl
@[simp] theorem advancePc_instrAcc : (s.advancePc).instrAcc = s.instrAcc := rfl
@[simp] theorem advancePc_timerAcc : (s.advancePc).timerAcc = s.timerAcc := rfl
@[simp] theorem advancePc_call : (s.advancePc).call = s.call := rfl
@[simp] theorem advancePc_sched : (s.advancePc).sched = s.sched := rfl
@[simp] theorem advancePc_sink : (s.advancePc).sink = s.sink := rfl
@[simp] theorem advancePc_draws : (s.advancePc).draws = s.draws := rfl
@[simp] theorem advancePc_reg (rn : RegNum) : (s.advancePc).reg rn = s.reg rn := rfl
@[simp] theorem advancePc_keyDown (key : BitVec 4) : (s.advancePc).keyDown key = s.keyDown key := rfl
@[simp] theorem advancePc_lastKeyDown (key : BitVec 4) : (s.advancePc).lastKeyDown key = s.lastKeyDown key := rfl
@[simp] theorem advancePc_dataAddr  : (s.advancePc).dataAddr = s.dataAddr := rfl

/-! rewindPc -/

@[simp] theorem rewindPc_mem : (s.rewindPc).mem = s.mem := rfl
@[simp] theorem rewindPc_v : (s.rewindPc).v = s.v := rfl
@[simp] theorem rewindPc_i : (s.rewindPc).i = s.i := rfl
@[simp] theorem rewindPc_pc : (s.rewindPc).pc = s.pc - 2#16 := rfl
@[simp] theorem rewindPc_sp : (s.rewindPc).sp = s.sp := rfl
@[simp] theorem rewindPc_stack : (s.rewindPc).stack = s.stack := rfl
@[simp] theorem rewindPc_dt : (s.rewindPc).dt = s.dt := rfl
@[simp] theorem rewindPc_st : (s.rewindPc).st = s.st := rfl
@[simp] theorem rewindPc_screen : (s.rewindPc).screen = s.screen := rfl
@[simp] theorem rewindPc_keys : (s.rewindPc).keys = s.keys := rfl
@[simp] theorem rewindPc_lastKeys : (s.rewindPc).lastKeys = s.lastKeys := rfl
@[simp] theorem rewindPc_fault : (s.rewindPc).fault = s.fault := rfl
@[simp] theorem rewindPc_instrAcc : (s.rewindPc).instrAcc = s.instrAcc := rfl
@[simp] theorem rewindPc_timerAcc : (s.rewindPc).timerAcc = s.timerAcc := rfl
@[simp] theorem rewindPc_call : (s.rewindPc).call = s.call := rfl
@[simp] theorem rewindPc_sched : (s.rewindPc).sched = s.sched := rfl
@[simp] theorem rewindPc_sink : (s.rewindPc).sink = s.sink := rfl
@[simp] theorem rewindPc_draws : (s.rewindPc).draws = s.draws := rfl
@[simp] theorem rewindPc_reg (rn : RegNum) : (s.rewindPc).reg rn = s.reg rn := rfl
@[simp] theorem rewindPc_keyDown (key : BitVec 4) : (s.rewindPc).keyDown key = s.keyDown key := rfl
@[simp] theorem rewindPc_lastKeyDown (key : BitVec 4) : (s.rewindPc).lastKeyDown key = s.lastKeyDown key := rfl
@[simp] theorem rewindPc_dataAddr  : (s.rewindPc).dataAddr = s.dataAddr := rfl

/-! takeBudget -/

@[simp] theorem takeBudget_mem (p q r : Rat) : (s.takeBudget p q r).mem = s.mem := rfl
@[simp] theorem takeBudget_v (p q r : Rat) : (s.takeBudget p q r).v = s.v := rfl
@[simp] theorem takeBudget_i (p q r : Rat) : (s.takeBudget p q r).i = s.i := rfl
@[simp] theorem takeBudget_pc (p q r : Rat) : (s.takeBudget p q r).pc = s.pc := rfl
@[simp] theorem takeBudget_sp (p q r : Rat) : (s.takeBudget p q r).sp = s.sp := rfl
@[simp] theorem takeBudget_stack (p q r : Rat) : (s.takeBudget p q r).stack = s.stack := rfl
@[simp] theorem takeBudget_dt (p q r : Rat) : (s.takeBudget p q r).dt = s.dt := rfl
@[simp] theorem takeBudget_st (p q r : Rat) : (s.takeBudget p q r).st = s.st := rfl
@[simp] theorem takeBudget_screen (p q r : Rat) : (s.takeBudget p q r).screen = s.screen := rfl
@[simp] theorem takeBudget_keys (p q r : Rat) : (s.takeBudget p q r).keys = s.keys := rfl
@[simp] theorem takeBudget_lastKeys (p q r : Rat) : (s.takeBudget p q r).lastKeys = s.lastKeys := rfl
@[simp] theorem takeBudget_fault (p q r : Rat) : (s.takeBudget p q r).fault = s.fault := rfl
@[simp] theorem takeBudget_instrAcc (p q r : Rat) : (s.takeBudget p q r).instrAcc = fracPart (s.budget p q r) := rfl
@[simp] theorem takeBudget_timerAcc (p q r : Rat) : (s.takeBudget p q r).timerAcc = s.timerAcc := rfl
@[simp] theorem takeBudget_call (p q r : Rat) : (s.takeBudget p q r).call = s.call := rfl
@[simp] theorem takeBudget_sched (p q r : Rat) : (s.takeBudget p q r).sched = s.sched := rfl
@[simp] theorem takeBudget_sink (p q r : Rat) : (s.takeBudget p q r).sink = s.sink := rfl
@[simp] theorem takeBudget_draws (p q r : Rat) : (s.takeBudget p q r).draws = s.draws := rfl
@[simp] theorem takeBudget_reg (p q r : Rat) (rn : RegNum) : (s.takeBudget p q r).reg rn = s.reg rn := rfl
@[simp] theorem takeBudget_keyDown (p q r : Rat) (key : BitVec 4) : (s.takeBudget p q r).keyDown key = s.keyDown key := rfl
@[simp] theorem takeBudget_lastKeyDown (p q r : Rat) (key : BitVec 4) : (s.takeBudget p q r).lastKeyDown key = s.lastKeyDown key := rfl
@[simp] theorem takeBudget_dataAddr (p q r : Rat) : (s.takeBudget p q r).dataAddr = s.dataAddr := rfl

/-! placeWord -/

@[simp] theorem placeWord_mem (w : Word) : (s.placeWord w).mem = s.mem.writeBytes s.placeAddr.toNat [highByte w, lowByte w] := rfl
@[simp] theorem placeWord_v (w : Word) : (s.placeWord w).v = s.v := rfl
@[simp] theorem placeWord_i (w : Word) : (s.placeWord w).i = s.i := rfl
@[simp] theorem placeWord_pc (w : Word) : (s.placeWord w).pc = s.placeAddr := rfl
@[simp] theorem placeWord_sp (w : Word) : (s.placeWord w).sp = s.sp := rfl
@[simp] theorem placeWord_stack (w : Word) : (s.placeWord w).stack = s.stack := rfl
@[simp] theorem placeWord_dt (w : Word) : (s.placeWord w).dt = s.dt := rfl
@[simp] theorem placeWord_st (w : Word) : (s.placeWord w).st = s.st := rfl
@[simp] theorem placeWord_screen (w : Word) : (s.placeWord w).screen = s.screen := rfl
@[simp] theorem placeWord_keys (w : Word) : (s.placeWord w).keys = s.keys := rfl
@[simp] theorem placeWord_lastKeys (w : Word) : (s.placeWord w).lastKeys = s.lastKeys := rfl
@[simp] theorem placeWord_fault (w : Word) : (s.placeWord w).fault = none := rfl
@[simp] theorem placeWord_instrAcc (w : Word) : (s.placeWord w).instrAcc = s.instrAcc := rfl
@[simp] theorem placeWord_timerAcc (w : Word) : (s.placeWord w).timerAcc = s.timerAcc := rfl
@[simp] theorem placeWord_call (w : Word) : (s.placeWord w).call = some s.openedCall := rfl
@[simp] theorem placeWord_sched (w : Word) : (s.placeWord w).sched = s.sched := rfl
@[simp] theorem placeWord_sink (w : Word) : (s.placeWord w).sink = s.sink := rfl
@[simp] theorem placeWord_draws (w : Word) : (s.placeWord w).draws = s.draws := rfl
@[simp] theorem placeWord_reg (w : Word) (rn : RegNum) : (s.placeWord w).reg rn = s.reg rn := rfl
@[simp] theorem placeWord_keyDown (w : Word) (key : BitVec 4) : (s.placeWord w).keyDown key = s.keyDown key := rfl
@[simp] theorem placeWord_lastKeyDown (w : Word) (key : BitVec 4) : (s.placeWord w).lastKeyDown key = s.lastKeyDown key := rfl
@[simp] theorem placeWord_dataAddr (w : Word) : (s.placeWord w).dataAddr = s.dataAddr := rfl

end Sys2Proof.Machine.State
end

