-- ==== Sys2Proof/Laws/Ops.lean ====
section
/-! SUPPORT. What each shared operation over registers, addresses, keys and timers can do, said once. -/

namespace Sys2Proof.Machine

/-- D23's constraint on FONT: glyph 0 has a set bit. -/
theorem font_glyph0 : ∃ a < 5, Config.font a ≠ 0 := by
  refine ⟨Config.glyph0Row, Config.glyph0Row.isLt, fun h => ?_⟩
  have := congrArg (fun b : Byte => b.getLsbD Config.glyph0Bit) h
  simp [Config.font] at this

/-! Address checks (R66 to R68). -/

theorem inRegion_iff (a : Nat) : inRegion a = true ↔ a < 80 ∨ (512 ≤ a ∧ a < 4096) := by simp [inRegion]

theorem fetchLegal_iff (a : Nat) : fetchLegal a = true ↔ a < 79 ∨ (512 ≤ a ∧ a < 4095) := by
  simp only [fetchLegal, Bool.and_eq_true, inRegion_iff]; omega

theorem inProgramRegion_iff (a : Nat) : inProgramRegion a = true ↔ 512 ≤ a ∧ a < 4096 := by simp [inProgramRegion]

theorem readLegal_iff (a n : Nat) : readLegal a n = true ↔ ∀ j < n, inRegion (a + j) = true := by
  induction n generalizing a with
  | zero => simp [readLegal]
  | succ n ih =>
    simp only [readLegal, Bool.and_eq_true, ih]
    constructor
    · rintro ⟨h0, h⟩ j hj
      cases j with
      | zero => exact h0
      | succ j => simpa [Nat.add_assoc, Nat.add_comm 1 j] using h j (by omega)
    · intro h
      refine ⟨by simpa using h 0 (by omega), fun j hj => ?_⟩
      simpa [Nat.add_assoc, Nat.add_comm 1 j] using h (j + 1) (by omega)

theorem writeLegal_iff (a n : Nat) : writeLegal a n = true ↔ n = 0 ∨ (512 ≤ a ∧ a + n ≤ 4096) := by
  induction n generalizing a with
  | zero => simp [writeLegal]
  | succ n ih => simp only [writeLegal, Bool.and_eq_true, inProgramRegion_iff, ih]; omega

/-! Registers (R21). -/

@[simp] theorem State.reg_setReg_same (s : State) (x : RegNum) (b : Byte) : (s.setReg x b).reg x = b := by
  simp [State.reg]

theorem State.reg_setReg (s : State) (x r : RegNum) (b : Byte) :
    (s.setReg x b).reg r = if r = x then b else s.reg r := by
  simp only [State.reg, State.setReg_v, Vector.getElem_set, BitVec.toNat_inj, eq_comm (a := x)]

/-- Everything a result with a flag writes: VF is the flag, whatever the destination (R191). -/
theorem State.reg_setRegFlag (s : State) (x r : RegNum) (b f : Byte) :
    (s.setRegFlag x b f).reg r = if r = 15 then f else if r = x then b else s.reg r := by
  simp only [State.setRegFlag, State.reg_setReg, BitVec.ofNat_eq_ofNat]

/-- A result with a flag changes the registers only. -/
theorem State.setRegFlag_frame (s : State) (x : RegNum) (b f : Byte) :
    s.setRegFlag x b f = { s with v := (s.setRegFlag x b f).v } := rfl

theorem flagByte_eq (c : Bool) : flagByte c = if c then 1 else 0 := rfl

/-- Everything a skip does (R175). -/
theorem State.skipIf_eq (s : State) (c : Bool) : s.skipIf c = s.setPc (if c then s.pc + 2#16 else s.pc) := by
  cases c <;> rfl

/-- The bytes of a register range are its registers in order (R215). -/
theorem State.length_regRange (s : State) (x : RegNum) : (s.regRange x).length = rangeCount x := by
  have := x.isLt
  simp [State.regRange, rangeCount]; omega

theorem State.getElem_regRange (s : State) (x : RegNum) (j : Nat) (h : j < (s.regRange x).length) :
    (s.regRange x)[j] = s.reg (BitVec.ofNat 4 j) := by
  have hx := x.isLt
  rw [State.length_regRange, rangeCount] at h
  have e : j % 16 = j := by omega
  simp [State.regRange, State.reg, e]

/-- Loading a range changes the registers only. -/
theorem State.loadRange_frame (s : State) (a n : Nat) : s.loadRange a n = { s with v := (s.loadRange a n).v } := by
  induction n with
  | zero => rfl
  | succ n ih =>
    simp only [State.loadRange]
    generalize s.loadRange a n = t at ih
    rw [ih]; rfl

/-- Everything a range load does to the registers (R216). -/
theorem State.reg_loadRange (s : State) (a n : Nat) (r : RegNum) (hn : n ≤ 16) :
    (s.loadRange a n).reg r = if r.toNat < n then s.mem.readByte (a + r.toNat) else s.reg r := by
  induction n with
  | zero => simp [State.loadRange]
  | succ n ih =>
    have hr := r.isLt
    simp only [State.loadRange, State.reg_setReg, ih (by omega)]
    by_cases e : r.toNat = n
    · have : r = BitVec.ofNat 4 n := by apply BitVec.eq_of_toNat_eq; simp [e]; omega
      rw [if_pos this, if_pos (by omega), e]
    · have : r ≠ BitVec.ofNat 4 n := by
        intro h; apply e; rw [h]; simp; omega
      rw [if_neg this]
      by_cases h : r.toNat < n
      · rw [if_pos h, if_pos (by omega)]
      · rw [if_neg h, if_neg (by omega)]

/-! Exact rationals (R156). -/

theorem exactSum_eq (p q : Rat) : exactSum p q = p + q := by
  unfold exactSum
  rw [Rat.mkRat_eq_div]
  have hp : (p.den : Rat) ≠ 0 := by exact_mod_cast p.den_nz
  have hq : (q.den : Rat) ≠ 0 := by exact_mod_cast q.den_nz
  have ep : p = p.num / p.den := (Rat.num_div_den p).symm
  have eq : q = q.num / q.den := (Rat.num_div_den q).symm
  push_cast
  conv_rhs => rw [ep, eq]
  field_simp

theorem wholePart_eq (q : Rat) : wholePart q = ⌊q⌋₊ := by
  have : wholePart q = ⌊q⌋.toNat := by
    simp only [wholePart, ← Rat.floor_intCast_div_natCast, Rat.num_div_den]
  rw [this, Int.floor_toNat]

theorem fracPart_eq (q : Rat) : fracPart q = q - ⌊q⌋₊ := by
  rw [fracPart, exactSum_eq, wholePart_eq]; push_cast; ring

theorem fracPart_nonneg (q : Rat) (h : 0 ≤ q) : 0 ≤ fracPart q := by
  rw [fracPart_eq]; have := Nat.floor_le h; linarith

theorem fracPart_lt_one (q : Rat) : fracPart q < 1 := by
  rw [fracPart_eq]; have := Nat.lt_floor_add_one q; linarith

/-! Timers (R158). -/

theorem dropTimer_toNat (t : Byte) (d : Nat) : (dropTimer t d).toNat = t.toNat - min t.toNat d := by
  have := t.isLt
  simp only [dropTimer, BitVec.toNat_ofNat]
  omega

/-- Everything a timer tick does (R158). -/
theorem State.timerTick_eq (s : State) (q : Rat) :
    s.timerTick q = { s with
      timerAcc := s.timerAcc + q - ⌊s.timerAcc + q⌋₊
      dt := dropTimer s.dt ⌊s.timerAcc + q⌋₊
      st := dropTimer s.st ⌊s.timerAcc + q⌋₊ } := by
  simp only [State.timerTick, State.ticksDue, exactSum_eq, wholePart_eq, fracPart_eq]

/-! Keys (R264). -/

/-- Every key stands in the scan. -/
theorem mem_keysAscending (k : BitVec 4) : k ∈ keysAscending := by revert k; decide

theorem State.releasedKey_eq_none (s : State) : s.releasedKey = none ↔ ∀ k, s.released k = false := by
  simp [State.releasedKey, List.find?_eq_none, mem_keysAscending]

theorem State.released_of_releasedKey (s : State) (k : BitVec 4) (h : s.releasedKey = some k) : s.released k = true :=
  List.find?_some h

/-- The key found is the lowest with a release edge (R264). -/
theorem State.releasedKey_lowest (s : State) (k : BitVec 4) (h : s.releasedKey = some k) (j : BitVec 4) (hj : j < k) :
    s.released j = false := by
  have hs : ∀ (l : List (BitVec 4)), l.Pairwise (· < ·) → l.find? s.released = some k →
      ∀ a ∈ l, a < k → s.released a = false := by
    intro l hl
    induction l with
    | nil => intro h; simp at h
    | cons c l ih =>
      intro h a ha hk
      simp only [List.find?_cons] at h
      cases e : s.released c with
      | true =>
        rw [e] at h
        obtain rfl : c = k := by simpa using h
        rcases List.mem_cons.1 ha with rfl | ha
        · exact absurd hk (by simp)
        · have := (List.pairwise_cons.1 hl).1 a ha
          exact absurd hk (by simp only [BitVec.lt_def] at this ⊢; omega)
      | false =>
        rw [e] at h
        rcases List.mem_cons.1 ha with rfl | ha
        · exact e
        · exact ih (List.pairwise_cons.1 hl).2 h a ha hk
  exact hs keysAscending (by decide) h j (mem_keysAscending j) hj

/-! The `step` call (R154 to R157). -/

/-- Everything the end of a slot does to the call. -/
theorem State.countSlot_frame (s : State) (c : StepCall) : s.countSlot c = { s with call := (s.countSlot c).call } := by
  unfold State.countSlot; split <;> rfl

theorem State.countSlot_call (s : State) (c : StepCall) :
    (s.countSlot c).call =
      if s.fault.isSome || c.slotsLeft ≤ 1 then none else some { c with slotsLeft := c.slotsLeft - 1 } := by
  unfold State.countSlot; split <;> rfl

/-- Everything steps 1 to 3 of `step` change: the accumulator and the call. -/
theorem State.beginCallWith_frame (s : State) (p q r d : Rat) :
    s.beginCallWith p q r d =
      { s with instrAcc := (s.beginCallWith p q r d).instrAcc, call := (s.beginCallWith p q r d).call } := by
  unfold State.beginCallWith; simp only; split <;> rfl

theorem State.beginCallWith_instrAcc (s : State) (p q r d : Rat) :
    (s.beginCallWith p q r d).instrAcc = fracPart (s.instrAcc + p * d * q) := by
  unfold State.beginCallWith; simp only; split <;> rfl

theorem State.beginCallWith_call (s : State) (p q r d : Rat) :
    (s.beginCallWith p q r d).call =
      if s.slotCount p q d = 0 || s.fault.isSome then s.call
      else some { slotsLeft := s.slotCount p q d, tdpi := tdpiOf r d (s.slotCount p q d) } := by
  unfold State.beginCallWith; simp only; split <;> rfl

theorem State.slotCount_eq (s : State) (p q d : Rat) : s.slotCount p q d = ⌊s.instrAcc + p * d * q⌋₊ := by
  simp [State.slotCount, State.budget, wholePart_eq]

end Sys2Proof.Machine
end

