-- ==== Sys2Proof/Laws/Exec.lean ====
section
/-! SUPPORT. What any instruction can do, said once for all of them; what a slot and a step can do (inversion lemmas). -/

namespace Sys2Proof.Machine

/-! The shared operations' frames as seen by the meanings. -/

theorem State.skipIf_frame (s : State) (c : Bool) : s.skipIf c = { s with pc := (s.skipIf c).pc } := by
  cases c <;> rfl

/-- Everything a checked store at `I` can do (R210): store the bytes, or raise with nothing written. -/
theorem storeAtI_cases (bs : List Byte) (s : State) :
    (writeLegal s.i.toNat bs.length = true ∧ storeAtI bs s = s.setMem (s.mem.writeBytes s.i.toNat bs)) ∨
    (writeLegal s.i.toNat bs.length = false ∧ storeAtI bs s = s.raise .memoryOutOfBounds) := by
  unfold storeAtI State.dataAddr
  cases h : writeLegal s.i.toNat bs.length
  · exact .inr ⟨rfl, by simp⟩
  · exact .inl ⟨rfl, by simp⟩

/-- What no instruction touches: the keys, the call, the accumulators and the other units (R168, R29, R31). -/
structure Untouched (s t : State) : Prop where
  keys : t.keys = s.keys
  lastKeys : t.lastKeys = s.lastKeys
  call : t.call = s.call
  instrAcc : t.instrAcc = s.instrAcc
  timerAcc : t.timerAcc = s.timerAcc
  sched : t.sched = s.sched
  sink : t.sink = s.sink

theorem Untouched.refl (s : State) : Untouched s s := ⟨rfl, rfl, rfl, rfl, rfl, rfl, rfl⟩

/-- No instruction touches the keys, the call, the accumulators, the Scheduler or the Sink. -/
theorem exec_untouched (i : Instr) (s t : State) (h : exec i s = .next t) : Untouched s t := by
  have loads : ∀ a n, Untouched s (s.loadRange a n) := fun a n => by
    rw [State.loadRange_frame]; exact ⟨rfl, rfl, rfl, rfl, rfl, rfl, rfl⟩
  have skips : ∀ c, Untouched s (s.skipIf c) := fun c => by
    rw [State.skipIf_frame]; exact ⟨rfl, rfl, rfl, rfl, rfl, rfl, rfl⟩
  have stores : ∀ bs, Untouched s (storeAtI bs s) := fun bs => by
    rcases storeAtI_cases bs s with ⟨-, e⟩ | ⟨-, e⟩ <;> rw [e] <;> exact ⟨rfl, rfl, rfl, rfl, rfl, rfl, rfl⟩
  cases i with
  | ret =>
    simp only [exec, execRet] at h
    split at h <;> cases h <;> exact ⟨rfl, rfl, rfl, rfl, rfl, rfl, rfl⟩
  | call nnn =>
    simp only [exec, execCall] at h
    split at h
    · split at h <;> cases h <;> exact ⟨rfl, rfl, rfl, rfl, rfl, rfl, rfl⟩
    · cases h; exact ⟨rfl, rfl, rfl, rfl, rfl, rfl, rfl⟩
  | drw x y n =>
    simp only [exec, execDrw] at h
    split at h
    · cases h; exact ⟨rfl, rfl, rfl, rfl, rfl, rfl, rfl⟩
    · split at h <;> cases h <;> exact ⟨rfl, rfl, rfl, rfl, rfl, rfl, rfl⟩
  | skp x =>
    simp only [exec, execSkp] at h
    split at h <;> cases h
    · exact skips _
    · exact ⟨rfl, rfl, rfl, rfl, rfl, rfl, rfl⟩
  | sknp x =>
    simp only [exec, execSknp] at h
    split at h <;> cases h
    · exact skips _
    · exact ⟨rfl, rfl, rfl, rfl, rfl, rfl, rfl⟩
  | ldVxK x =>
    simp only [exec, execLdVxK] at h
    split at h <;> cases h <;> exact ⟨rfl, rfl, rfl, rfl, rfl, rfl, rfl⟩
  | loadRegs x =>
    simp only [exec, execLoadRegs] at h
    split at h <;> cases h
    · exact loads _ _
    · exact ⟨rfl, rfl, rfl, rfl, rfl, rfl, rfl⟩
  | ldB x => cases h; exact stores _
  | storeRegs x => cases h; exact stores _
  | seImm x kk => cases h; exact skips _
  | sneImm x kk => cases h; exact skips _
  | seReg x y => cases h; exact skips _
  | sneReg x y => cases h; exact skips _
  | _ => cases h; exact ⟨rfl, rfl, rfl, rfl, rfl, rfl, rfl⟩

/-- How an instruction can change memory: not at all, or by one store inside the program region (R68, R71). -/
theorem exec_mem (i : Instr) (s t : State) (h : exec i s = .next t) :
    t.mem = s.mem ∨ ∃ a bs, 512 ≤ a ∧ a + bs.length ≤ 4096 ∧ t.mem = s.mem.writeBytes a bs := by
  have stores : ∀ bs : List Byte, bs ≠ [] →
      ((storeAtI bs s).mem = s.mem ∨ ∃ a bs', 512 ≤ a ∧ a + bs'.length ≤ 4096 ∧ (storeAtI bs s).mem = s.mem.writeBytes a bs') := by
    intro bs hbs
    rcases storeAtI_cases bs s with ⟨hw, e⟩ | ⟨-, e⟩
    · rw [writeLegal_iff] at hw
      have : bs.length ≠ 0 := by simpa using hbs
      exact .inr ⟨s.i.toNat, bs, by omega, by omega, by rw [e]; rfl⟩
    · exact .inl (by rw [e]; rfl)
  cases i with
  | ret =>
    simp only [exec, execRet] at h
    split at h <;> cases h <;> exact .inl rfl
  | call nnn =>
    simp only [exec, execCall] at h
    split at h
    · split at h <;> cases h <;> exact .inl rfl
    · cases h; exact .inl rfl
  | drw x y n =>
    simp only [exec, execDrw] at h
    split at h
    · cases h; exact .inl rfl
    · split at h <;> cases h <;> exact .inl rfl
  | skp x =>
    simp only [exec, execSkp] at h
    split at h <;> cases h
    · exact .inl (by rw [State.skipIf_eq]; rfl)
    · exact .inl rfl
  | sknp x =>
    simp only [exec, execSknp] at h
    split at h <;> cases h
    · exact .inl (by rw [State.skipIf_eq]; rfl)
    · exact .inl rfl
  | ldVxK x =>
    simp only [exec, execLdVxK] at h
    split at h <;> cases h <;> exact .inl rfl
  | loadRegs x =>
    simp only [exec, execLoadRegs] at h
    split at h <;> cases h
    · exact .inl (by rw [State.loadRange_frame])
    · exact .inl rfl
  | ldB x => cases h; exact stores _ (by simp [decimalDigits])
  | storeRegs x =>
    cases h
    refine stores _ fun e => ?_
    have := State.length_regRange s x
    rw [e] at this
    simp [rangeCount] at this
  | seImm x kk => cases h; exact .inl (by rw [State.skipIf_eq]; rfl)
  | sneImm x kk => cases h; exact .inl (by rw [State.skipIf_eq]; rfl)
  | seReg x y => cases h; exact .inl (by rw [State.skipIf_eq]; rfl)
  | sneReg x y => cases h; exact .inl (by rw [State.skipIf_eq]; rfl)
  | _ => cases h; exact .inl rfl

/-- How an instruction can change the fault field: not at all, or to one of the faults an instruction raises (R282 to R290). -/
theorem exec_fault (i : Instr) (s t : State) (h : exec i s = .next t) :
    t.fault = s.fault ∨ t.fault = some .memoryOutOfBounds ∨ t.fault = some .stackUnderflow ∨
      t.fault = some .stackOverflow ∨ t.fault = some .unknownKey ∨ t.fault = some .invalidDrawCoordinates := by
  have stores : ∀ bs, (storeAtI bs s).fault = s.fault ∨ (storeAtI bs s).fault = some .memoryOutOfBounds := fun bs => by
    rcases storeAtI_cases bs s with ⟨-, e⟩ | ⟨-, e⟩ <;> rw [e]
    · exact .inl rfl
    · exact .inr rfl
  cases i with
  | ret =>
    simp only [exec, execRet] at h
    split at h <;> cases h
    · exact .inl rfl
    · exact .inr (.inr (.inl rfl))
  | call nnn =>
    simp only [exec, execCall] at h
    split at h
    · split at h <;> cases h
      · exact .inl rfl
      · exact .inr (.inl rfl)
    · cases h; exact .inr (.inr (.inr (.inl rfl)))
  | drw x y n =>
    simp only [exec, execDrw] at h
    split at h
    · cases h; simp
    · split at h <;> cases h
      · exact .inl rfl
      · exact .inr (.inl rfl)
  | skp x =>
    simp only [exec, execSkp] at h
    split at h <;> cases h
    · exact .inl (by rw [State.skipIf_eq]; rfl)
    · simp
  | sknp x =>
    simp only [exec, execSknp] at h
    split at h <;> cases h
    · exact .inl (by rw [State.skipIf_eq]; rfl)
    · simp
  | ldVxK x =>
    simp only [exec, execLdVxK] at h
    split at h <;> cases h <;> exact .inl rfl
  | loadRegs x =>
    simp only [exec, execLoadRegs] at h
    split at h <;> cases h
    · exact .inl (by rw [State.loadRange_frame])
    · exact .inr (.inl rfl)
  | ldB x => cases h; rcases stores (decimalDigits (s.reg x)) with e | e <;> simp [e]
  | storeRegs x => cases h; rcases stores (s.regRange x) with e | e <;> simp [e]
  | seImm x kk => cases h; exact .inl (by rw [State.skipIf_eq]; rfl)
  | sneImm x kk => cases h; exact .inl (by rw [State.skipIf_eq]; rfl)
  | seReg x y => cases h; exact .inl (by rw [State.skipIf_eq]; rfl)
  | sneReg x y => cases h; exact .inl (by rw [State.skipIf_eq]; rfl)
  | _ => cases h; exact .inl rfl

/-- Where an instruction can leave `PC`: unchanged, two on, two back, a 12-bit target, an indexed target, or a stack entry (R25). -/
theorem exec_pc (i : Instr) (s t : State) (h : exec i s = .next t) :
    t.pc = s.pc ∨ t.pc = s.pc + 2#16 ∨ t.pc = s.pc - 2#16 ∨ (∃ nnn, t.pc = addrWord nnn) ∨
      (∃ nnn b, t.pc = addrWord nnn + byteWord b) ∨ ∃ k : Fin 16, t.pc = s.stack[k] := by
  have skips : ∀ c, (s.skipIf c).pc = s.pc ∨ (s.skipIf c).pc = s.pc + 2#16 := fun c => by cases c <;> simp [State.skipIf]
  have stores : ∀ bs, (storeAtI bs s).pc = s.pc := fun bs => by
    rcases storeAtI_cases bs s with ⟨-, e⟩ | ⟨-, e⟩ <;> rw [e] <;> rfl
  cases i with
  | ret =>
    simp only [exec, execRet] at h
    split at h <;> cases h
    · exact .inr (.inr (.inr (.inr (.inr ⟨⟨s.sp.val - 1, by have := s.sp.isLt; omega⟩, rfl⟩))))
    · exact .inl rfl
  | call nnn =>
    simp only [exec, execCall] at h
    split at h
    · split at h <;> cases h
      · exact .inr (.inr (.inr (.inl ⟨nnn, rfl⟩)))
      · exact .inl rfl
    · cases h; exact .inl rfl
  | jp nnn => cases h; exact .inr (.inr (.inr (.inl ⟨nnn, rfl⟩)))
  | jpV0 nnn => cases h; exact .inr (.inr (.inr (.inr (.inl ⟨nnn, _, rfl⟩))))
  | drw x y n =>
    simp only [exec, execDrw] at h
    split at h
    · cases h; exact .inl rfl
    · split at h <;> cases h <;> exact .inl rfl
  | skp x =>
    simp only [exec, execSkp] at h
    split at h <;> cases h
    · rcases skips (s.keyDown (keyOfByte (s.reg x))) with e | e <;> simp [e]
    · exact .inl rfl
  | sknp x =>
    simp only [exec, execSknp] at h
    split at h <;> cases h
    · rcases skips (!s.keyDown (keyOfByte (s.reg x))) with e | e <;> simp [e]
    · exact .inl rfl
  | ldVxK x =>
    simp only [exec, execLdVxK] at h
    split at h <;> cases h
    · exact .inl rfl
    · exact .inr (.inr (.inl rfl))
  | loadRegs x =>
    simp only [exec, execLoadRegs] at h
    split at h <;> cases h
    · exact .inl (by rw [State.loadRange_frame])
    · exact .inl rfl
  | ldB x => cases h; exact .inl (stores _)
  | storeRegs x => cases h; exact .inl (stores _)
  | seImm x kk => cases h; rcases skips (s.reg x == kk) with e | e <;> simp [e]
  | sneImm x kk => cases h; rcases skips (s.reg x != kk) with e | e <;> simp [e]
  | seReg x y => cases h; rcases skips (s.reg x == s.reg y) with e | e <;> simp [e]
  | sneReg x y => cases h; rcases skips (s.reg x != s.reg y) with e | e <;> simp [e]
  | _ => cases h; exact .inl rfl

/-- How an instruction can change the stack: not at all, or by `PC` written to one entry (R173). -/
theorem exec_stack (i : Instr) (s t : State) (h : exec i s = .next t) :
    t.stack = s.stack ∨ ∃ hsp : s.sp.val < 16, t.stack = s.stack.set s.sp.val s.pc hsp := by
  have stores : ∀ bs, (storeAtI bs s).stack = s.stack := fun bs => by
    rcases storeAtI_cases bs s with ⟨-, e⟩ | ⟨-, e⟩ <;> rw [e] <;> rfl
  cases i with
  | ret =>
    simp only [exec, execRet] at h
    split at h <;> cases h <;> exact .inl rfl
  | call nnn =>
    simp only [exec, execCall] at h
    split at h
    · next hsp =>
      split at h <;> cases h
      · exact .inr ⟨hsp, rfl⟩
      · exact .inl rfl
    · cases h; exact .inl rfl
  | drw x y n =>
    simp only [exec, execDrw] at h
    split at h
    · cases h; exact .inl rfl
    · split at h <;> cases h <;> exact .inl rfl
  | skp x =>
    simp only [exec, execSkp] at h
    split at h <;> cases h
    · exact .inl (by rw [State.skipIf_eq]; rfl)
    · exact .inl rfl
  | sknp x =>
    simp only [exec, execSknp] at h
    split at h <;> cases h
    · exact .inl (by rw [State.skipIf_eq]; rfl)
    · exact .inl rfl
  | ldVxK x =>
    simp only [exec, execLdVxK] at h
    split at h <;> cases h <;> exact .inl rfl
  | loadRegs x =>
    simp only [exec, execLoadRegs] at h
    split at h <;> cases h
    · exact .inl (by rw [State.loadRange_frame])
    · exact .inl rfl
  | ldB x => cases h; exact .inl (stores _)
  | storeRegs x => cases h; exact .inl (stores _)
  | seImm x kk => cases h; exact .inl (by rw [State.skipIf_eq]; rfl)
  | sneImm x kk => cases h; exact .inl (by rw [State.skipIf_eq]; rfl)
  | seReg x y => cases h; exact .inl (by rw [State.skipIf_eq]; rfl)
  | sneReg x y => cases h; exact .inl (by rw [State.skipIf_eq]; rfl)
  | _ => cases h; exact .inl rfl

/-! Slots and steps. -/

/-- What a slot can do (R158 to R162): fault in the fetch check, fault in the decoder, or run the decoded instruction. -/
theorem slot_cases (q : Rat) (s t : State) (h : slot q s = .next t) :
    (fetchLegal s.pc.toNat = false ∧ t = (s.timerTick q).raise .memoryOutOfBounds) ∨
    (fetchLegal s.pc.toNat = true ∧ decodeWord s.fetchWord = none ∧ t = (s.timerTick q).advancePc.raise .unknownInstruction) ∨
    (fetchLegal s.pc.toNat = true ∧ ∃ i u, decodeWord s.fetchWord = some i ∧ exec i (s.timerTick q).advancePc = .next u ∧
      t = finishSlot u) := by
  have ef : (s.timerTick q).fetchWord = s.fetchWord := rfl
  simp only [slot, fetchAndRun, State.timerTick_pc, ef] at h
  split at h
  · next hf =>
    refine .inr ?_
    unfold runWord at h
    split at h
    · next hd => cases h; exact .inl ⟨hf, hd, rfl⟩
    · next i hd =>
      split at h <;> cases h
      next u hu => exact .inr ⟨hf, i, u, hd, hu, rfl⟩
  · next hf => cases h; exact .inl ⟨by simpa using hf, rfl⟩

/-- What a step can do: open a call, close a call on a faulted VM, or run a slot and count it (R157). -/
theorem step_cases (s t : State) (h : step s = .next t) :
    (s.call = none ∧ t = s.beginCall) ∨
    (∃ c, s.call = some c ∧ s.fault.isSome = true ∧ t = s.setCall none) ∨
    (∃ c u, s.call = some c ∧ s.fault = none ∧ slot c.tdpi s = .next u ∧ t = u.countSlot c) := by
  unfold step at h
  split at h
  · next hc => cases h; exact .inl ⟨hc, rfl⟩
  · next c hc =>
    split at h
    · next hf => cases h; exact .inr (.inl ⟨c, hc, hf, rfl⟩)
    · next hf =>
      unfold callSlot at h
      split at h <;> cases h
      next u hu => exact .inr (.inr ⟨c, u, hc, by simpa using hf, hu, rfl⟩)

theorem finishSlot_frame (t : State) : finishSlot t = { t with lastKeys := (finishSlot t).lastKeys } := by
  unfold finishSlot; split <;> rfl

theorem finishSlot_lastKeys (t : State) : (finishSlot t).lastKeys = if t.fault = none then t.keys else t.lastKeys := by
  unfold finishSlot
  cases t.fault <;> simp

end Sys2Proof.Machine
end

