-- ==== Sys2Proof/Laws/PerInstr.lean ====
section
/-! SUPPORT. Per-instruction families: one lemma per constructor of `Instr`. -/

namespace Sys2Proof.Laws.EncodedInItsRow

/-- The encoding of an instruction lies in the opcode-table row that carries its mnemonic (R94, R96, R101). -/
def Statement (i : Instr) : Prop :=
  ∃ row ∈ opcodeRows, row.mnemonic = i.mnemonic ∧ row.selects (encode i) = true

/-- The statement from the row's place in the table. -/
theorem of_row (i : Instr) (k : Nat) (row : OpcodeRow) (hk : opcodeRows[k]? = some row) (hm : row.mnemonic = i.mnemonic)
    (hs : encode i &&& row.mask = row.pattern) : Statement i :=
  ⟨row, List.mem_of_getElem? hk, hm, decide_eq_true hs⟩

/-- A mask of the first digit sees the major opcode of format NNN. -/
theorem nnn_F000 (op : BitVec 4) (nnn : BitVec 12) : encNNN op nnn &&& 0xF000#16 = encNNN op 0#12 := by
  rw [and_F000, fieldOp_encNNN]

/-- A mask of the first digit sees the major opcode of format XKK. -/
theorem xkk_F000 (op x : BitVec 4) (kk : Byte) : encXKK op x kk &&& 0xF000#16 = encNNN op 0#12 := by
  rw [and_F000, fieldOp_encXKK]

/-- A mask of the first digit sees the major opcode of format XYN. -/
theorem xyn_F000 (op x y n : BitVec 4) : encXYN op x y n &&& 0xF000#16 = encNNN op 0#12 := by
  rw [and_F000, fieldOp_encXYN]

/-- A mask of the outer digits sees both opcodes of format XY. -/
theorem xy_F00F (op x y n : BitVec 4) : encXYN op x y n &&& 0xF00F#16 = encXYN op 0#4 0#4 n := by
  rw [and_F00F, fieldOp_encXYN, fieldN_encXYN]

/-- A mask of the first digit and the low byte sees both opcodes of format X. -/
theorem x_F0FF (op x : BitVec 4) (kk : Byte) : encXKK op x kk &&& 0xF0FF#16 = encXKK op 0#4 kk := by
  rw [and_F0FF, fieldOp_encXKK, fieldKK_encXKK]

theorem cls : Statement (Instr.cls) :=
  of_row _ 0 ⟨"CLS", 0x00E0, 0xFFFF⟩ rfl rfl rfl

theorem ret : Statement (Instr.ret) :=
  of_row _ 1 ⟨"RET", 0x00EE, 0xFFFF⟩ rfl rfl rfl

theorem jp (nnn : BitVec 12) : Statement (Instr.jp nnn) :=
  of_row _ 2 ⟨"JP_nnn", 0x1000, 0xF000⟩ rfl rfl (nnn_F000 0x1#4 nnn)

theorem call (nnn : BitVec 12) : Statement (Instr.call nnn) :=
  of_row _ 3 ⟨"CALL_nnn", 0x2000, 0xF000⟩ rfl rfl (nnn_F000 0x2#4 nnn)

theorem seImm (x : RegNum) (kk : Byte) : Statement (Instr.seImm x kk) :=
  of_row _ 4 ⟨"SE_Vx__kk", 0x3000, 0xF000⟩ rfl rfl (xkk_F000 0x3#4 x kk)

theorem sneImm (x : RegNum) (kk : Byte) : Statement (Instr.sneImm x kk) :=
  of_row _ 5 ⟨"SNE_Vx__kk", 0x4000, 0xF000⟩ rfl rfl (xkk_F000 0x4#4 x kk)

theorem seReg (x y : RegNum) : Statement (Instr.seReg x y) :=
  of_row _ 6 ⟨"SE_Vx__Vy", 0x5000, 0xF00F⟩ rfl rfl (xy_F00F 0x5#4 x y 0x0#4)

theorem ldImm (x : RegNum) (kk : Byte) : Statement (Instr.ldImm x kk) :=
  of_row _ 7 ⟨"LD_Vx__kk", 0x6000, 0xF000⟩ rfl rfl (xkk_F000 0x6#4 x kk)

theorem addImm (x : RegNum) (kk : Byte) : Statement (Instr.addImm x kk) :=
  of_row _ 8 ⟨"ADD_Vx__kk", 0x7000, 0xF000⟩ rfl rfl (xkk_F000 0x7#4 x kk)

theorem ldReg (x y : RegNum) : Statement (Instr.ldReg x y) :=
  of_row _ 9 ⟨"LD_Vx__Vy", 0x8000, 0xF00F⟩ rfl rfl (xy_F00F 0x8#4 x y 0x0#4)

theorem orReg (x y : RegNum) : Statement (Instr.orReg x y) :=
  of_row _ 10 ⟨"OR_Vx__Vy", 0x8001, 0xF00F⟩ rfl rfl (xy_F00F 0x8#4 x y 0x1#4)

theorem andReg (x y : RegNum) : Statement (Instr.andReg x y) :=
  of_row _ 11 ⟨"AND_Vx__Vy", 0x8002, 0xF00F⟩ rfl rfl (xy_F00F 0x8#4 x y 0x2#4)

theorem xorReg (x y : RegNum) : Statement (Instr.xorReg x y) :=
  of_row _ 12 ⟨"XOR_Vx__Vy", 0x8003, 0xF00F⟩ rfl rfl (xy_F00F 0x8#4 x y 0x3#4)

theorem addReg (x y : RegNum) : Statement (Instr.addReg x y) :=
  of_row _ 13 ⟨"ADD_Vx__Vy", 0x8004, 0xF00F⟩ rfl rfl (xy_F00F 0x8#4 x y 0x4#4)

theorem subReg (x y : RegNum) : Statement (Instr.subReg x y) :=
  of_row _ 14 ⟨"SUB_Vx__Vy", 0x8005, 0xF00F⟩ rfl rfl (xy_F00F 0x8#4 x y 0x5#4)

theorem shr (x y : RegNum) : Statement (Instr.shr x y) :=
  of_row _ 15 ⟨"SHR_Vx__Vy", 0x8006, 0xF00F⟩ rfl rfl (xy_F00F 0x8#4 x y 0x6#4)

theorem subn (x y : RegNum) : Statement (Instr.subn x y) :=
  of_row _ 16 ⟨"SUBN_Vx__Vy", 0x8007, 0xF00F⟩ rfl rfl (xy_F00F 0x8#4 x y 0x7#4)

theorem shl (x y : RegNum) : Statement (Instr.shl x y) :=
  of_row _ 17 ⟨"SHL_Vx__Vy", 0x800E, 0xF00F⟩ rfl rfl (xy_F00F 0x8#4 x y 0xE#4)

theorem sneReg (x y : RegNum) : Statement (Instr.sneReg x y) :=
  of_row _ 18 ⟨"SNE_Vx__Vy", 0x9000, 0xF00F⟩ rfl rfl (xy_F00F 0x9#4 x y 0x0#4)

theorem ldI (nnn : BitVec 12) : Statement (Instr.ldI nnn) :=
  of_row _ 19 ⟨"LD_I__nnn", 0xA000, 0xF000⟩ rfl rfl (nnn_F000 0xA#4 nnn)

theorem jpV0 (nnn : BitVec 12) : Statement (Instr.jpV0 nnn) :=
  of_row _ 20 ⟨"JP_V0__nnn", 0xB000, 0xF000⟩ rfl rfl (nnn_F000 0xB#4 nnn)

theorem rnd (x : RegNum) (kk : Byte) : Statement (Instr.rnd x kk) :=
  of_row _ 21 ⟨"RND_Vx__kk", 0xC000, 0xF000⟩ rfl rfl (xkk_F000 0xC#4 x kk)

theorem drw (x y : RegNum) (n : BitVec 4) : Statement (Instr.drw x y n) :=
  of_row _ 22 ⟨"DRW_Vx__Vy__n", 0xD000, 0xF000⟩ rfl rfl (xyn_F000 0xD#4 x y n)

theorem skp (x : RegNum) : Statement (Instr.skp x) :=
  of_row _ 23 ⟨"SKP_Vx", 0xE09E, 0xF0FF⟩ rfl rfl (x_F0FF 0xE#4 x 0x9E#8)

theorem sknp (x : RegNum) : Statement (Instr.sknp x) :=
  of_row _ 24 ⟨"SKNP_Vx", 0xE0A1, 0xF0FF⟩ rfl rfl (x_F0FF 0xE#4 x 0xA1#8)

theorem ldVxDt (x : RegNum) : Statement (Instr.ldVxDt x) :=
  of_row _ 25 ⟨"LD_Vx__DT", 0xF007, 0xF0FF⟩ rfl rfl (x_F0FF 0xF#4 x 0x07#8)

theorem ldVxK (x : RegNum) : Statement (Instr.ldVxK x) :=
  of_row _ 26 ⟨"LD_Vx__K", 0xF00A, 0xF0FF⟩ rfl rfl (x_F0FF 0xF#4 x 0x0A#8)

theorem ldDtVx (x : RegNum) : Statement (Instr.ldDtVx x) :=
  of_row _ 27 ⟨"LD_DT__Vx", 0xF015, 0xF0FF⟩ rfl rfl (x_F0FF 0xF#4 x 0x15#8)

theorem ldStVx (x : RegNum) : Statement (Instr.ldStVx x) :=
  of_row _ 28 ⟨"LD_ST__Vx", 0xF018, 0xF0FF⟩ rfl rfl (x_F0FF 0xF#4 x 0x18#8)

theorem addI (x : RegNum) : Statement (Instr.addI x) :=
  of_row _ 29 ⟨"ADD_I__Vx", 0xF01E, 0xF0FF⟩ rfl rfl (x_F0FF 0xF#4 x 0x1E#8)

theorem ldF (x : RegNum) : Statement (Instr.ldF x) :=
  of_row _ 30 ⟨"LD_F__Vx", 0xF029, 0xF0FF⟩ rfl rfl (x_F0FF 0xF#4 x 0x29#8)

theorem ldB (x : RegNum) : Statement (Instr.ldB x) :=
  of_row _ 31 ⟨"LD_B__Vx", 0xF033, 0xF0FF⟩ rfl rfl (x_F0FF 0xF#4 x 0x33#8)

theorem storeRegs (x : RegNum) : Statement (Instr.storeRegs x) :=
  of_row _ 32 ⟨"LD__I___Vx", 0xF055, 0xF0FF⟩ rfl rfl (x_F0FF 0xF#4 x 0x55#8)

theorem loadRegs (x : RegNum) : Statement (Instr.loadRegs x) :=
  of_row _ 33 ⟨"LD_Vx___I", 0xF065, 0xF0FF⟩ rfl rfl (x_F0FF 0xF#4 x 0x65#8)

end Sys2Proof.Laws.EncodedInItsRow
end

