-- ==== Sys2Proof/Laws/Scheduler.lean ====
section
/-! SUPPORT. What the Scheduler's operations can do, said once (spec 40_scheduler). -/

namespace Sys2Proof.Machine.Scheduler

/-- What a call of `advance` can do: overflow with a resync, or the normal path (R130, R131). -/
theorem commit_cases (c : Scheduler) (sample : Nat) (hist : Vector Nat 4) :
    (c.stepMaximum < c.wholeSteps (c.accumulator + c.smoothed (historySum hist)) ∧
      c.commit sample hist = (c.stepMaximum, c.resync)) ∨
    (c.wholeSteps (c.accumulator + c.smoothed (historySum hist)) ≤ c.stepMaximum ∧
      c.commit sample hist = (c.wholeSteps (c.accumulator + c.smoothed (historySum hist)),
        { c with
          lastTime := c.sampleTime sample
          accumulator := c.accumulator + c.smoothed (historySum hist) -
            c.wholeSteps (c.accumulator + c.smoothed (historySum hist)) * c.tickPerStep
          residual := c.carry (historySum hist) % 4
          history := hist
          cursor := c.cursor + 1 })) := by
  simp only [commit]
  split
  · next h => exact .inl ⟨h, rfl⟩
  · next h => exact .inr ⟨Nat.le_of_not_gt h, rfl⟩

/-- The quantised count is a multiple of the multiplicity (R129). -/
theorem dvd_wholeSteps (c : Scheduler) (t : Nat) : c.stepMultiplicity ∣ c.wholeSteps t := Nat.dvd_sub_mod _

/-- The quantised count never takes more ticks than there are. -/
theorem wholeSteps_mul_le (c : Scheduler) (t : Nat) : c.wholeSteps t * c.tickPerStep ≤ t :=
  Nat.le_trans (Nat.mul_le_mul_right _ (Nat.sub_le _ _)) (Nat.div_mul_le_self _ _)

/-- What the quantisation leaves is less than one multiplicity unit (R133). -/
theorem sub_wholeSteps_lt (c : Scheduler) (t : Nat) (h1 : 1 ≤ c.tickPerStep) (h2 : 1 ≤ c.stepMultiplicity) :
    t - c.wholeSteps t * c.tickPerStep < c.unit := by
  have hq := Nat.div_add_mod t c.tickPerStep
  have hr := Nat.mod_lt t (show 0 < c.tickPerStep by omega)
  have hm := Nat.mod_lt (t / c.tickPerStep) (show 0 < c.stepMultiplicity by omega)
  have hs : c.wholeSteps t + t / c.tickPerStep % c.stepMultiplicity = t / c.tickPerStep :=
    Nat.sub_add_cancel (Nat.mod_le _ _)
  generalize t / c.tickPerStep % c.stepMultiplicity = m at *
  generalize c.wholeSteps t = n at *
  have e : t = n * c.tickPerStep + m * c.tickPerStep + t % c.tickPerStep := by
    rw [← Nat.add_mul, hs, Nat.mul_comm]; exact hq.symm
  have hle : m * c.tickPerStep + c.tickPerStep ≤ c.unit := by
    unfold unit
    calc m * c.tickPerStep + c.tickPerStep = c.tickPerStep * (m + 1) := by ring
      _ ≤ c.tickPerStep * c.stepMultiplicity := Nat.mul_le_mul_left _ hm
  omega

/-- The adjusted sample is never 0 with legal parameters, so the normal path leaves no sentinel (R131). -/
theorem sampleTime_pos (c : Scheduler) (sample : Nat) (h1 : 1 ≤ c.tickPerStep) (h2 : 1 ≤ c.stepMultiplicity) :
    0 < c.sampleTime sample := by
  have hu : 0 < c.unit := Nat.mul_pos h1 h2
  unfold sampleTime
  split <;> omega

/-- The conservation law of the average and the residual (R134). -/
theorem smoothed_conserves (c : Scheduler) (sum : Nat) : 4 * c.smoothed sum + c.carry sum % 4 = sum + c.residual := by
  simp only [smoothed, carry]; omega

/-- The delta pushed is the entry at the cursor; the others stay (R127). -/
theorem pushed_get (c : Scheduler) (d : Nat) (k : Fin 4) : (c.pushed d)[k] = if k = c.cursor then d else c.history[k] := by
  simp only [pushed, Fin.getElem_fin, Vector.getElem_set]
  by_cases h : k = c.cursor
  · subst h; simp
  · have : c.cursor.val ≠ k.val := fun e => h (Fin.ext e.symm)
    simp [h, this]

/-! The premises of R138. -/

@[simp] theorem largestPeriod_nil (c : Scheduler) (h : c.snapTable = []) : c.largestPeriod = 0 := by rw [largestPeriod, h]; rfl

/-- The largest period is below a positive bound exactly when every period is. -/
theorem largestPeriod_lt (c : Scheduler) (b : Nat) (hb : 0 < b) : c.largestPeriod < b ↔ ∀ p ∈ c.snapTable, p < b := by
  unfold largestPeriod
  induction c.snapTable with
  | nil => simpa using hb
  | cons q l ih => simp [ih]

/-- The check `advance` makes is the premises of R138, said period by period. -/
theorem fitsWidth_iff (c : Scheduler) (tw sample : Nat) : c.fitsWidth tw sample = true ↔ c.WidthPremises tw sample := by
  have hbound := fun b hb => (c.largestPeriod_lt b hb).1
  have hmem : ∀ p ∈ c.snapTable, p ≤ c.largestPeriod := fun p hp =>
    Nat.lt_succ_iff.1 (hbound (c.largestPeriod + 1) (Nat.succ_pos _) (Nat.lt_succ_self _) p hp)
  simp only [fitsWidth, Bool.and_eq_true, decide_eq_true_eq]
  constructor
  · rintro ⟨⟨h1, h2⟩, h3⟩
    unfold unit spikeCap at *
    exact ⟨h1, by omega, fun p hp => (by have := hmem p hp; omega), by omega, fun p hp => (by have := hmem p hp; omega)⟩
  · intro h
    have h2 := h.clamp
    have h4 := h.total
    have hp : 4 * c.largestPeriod + 3 < 2 ^ tw := by
      have := (c.largestPeriod_lt ((2 ^ tw - 3 + 3) / 4) (by omega)).2 fun p hp => by have := h.period p hp; omega
      omega
    have hq := (c.largestPeriod_lt (2 ^ tw - (c.unit + c.spikeCap)) (by unfold unit spikeCap; omega)).2 fun p hp => by
      have := h.totalPeriod p hp
      unfold unit spikeCap
      omega
    unfold unit spikeCap at *
    exact ⟨⟨h.sample, by omega⟩, by omega⟩

/-- What `advance` can do: the rule where the premises of R138 hold, and a refusal elsewhere (R132, R138, D24). -/
theorem advance_cases (c : Scheduler) (sample : Nat) :
    (c.WidthPremises Config.tickWidth sample ∧ c.advance sample = .next (c.advanceWith Config.snapTol sample)) ∨
    (¬ c.WidthPremises Config.tickWidth sample ∧ c.advance sample = .refused .tickWidthExceeded) := by
  rw [← fitsWidth_iff]
  unfold advance
  split
  · next h => exact .inl ⟨h, rfl⟩
  · next h => exact .inr ⟨h, rfl⟩

/-- What `register_snap_frequency` can do: append a period, or one of its two refusals (R122, D27). -/
theorem registerSnapWith_cases (c : Scheduler) (tps cap hz : Nat) :
    (c.snapTable.length < cap ∧ 1 ≤ hz ∧
      c.registerSnapWith tps cap hz = .next { c with snapTable := c.snapTable ++ [snapPeriod tps hz] }) ∨
    (cap ≤ c.snapTable.length ∧ c.registerSnapWith tps cap hz = .refused .snapTableFull) ∨
    (c.snapTable.length < cap ∧ hz = 0 ∧ c.registerSnapWith tps cap hz = .refused .snapFrequencyZero) := by
  unfold registerSnapWith
  split
  · next h => exact .inr (.inl ⟨h, rfl⟩)
  · next h =>
    split
    · next hz1 => exact .inl ⟨Nat.lt_of_not_le h, of_decide_eq_true hz1, rfl⟩
    · next hz1 => exact .inr (.inr ⟨Nat.lt_of_not_le h, by simpa [snapFrequencyWellFormed] using hz1, rfl⟩)

/-- The exact form of the snap comparison (R126, D27). -/
theorem accepts_iff (c : Scheduler) (tol : NNRat) (raw p : Nat) (h1 : 1 ≤ c.tickPerStep) :
    c.accepts tol raw p = true ↔ |(p : Rat) - raw| / c.tickPerStep < tol := by
  have hd : (0 : Rat) < tol.den := by exact_mod_cast tol.den_pos
  have ht : (0 : Rat) < c.tickPerStep := by exact_mod_cast h1
  have etol : (tol : Rat) = tol.num / tol.den := by
    conv_lhs => rw [← NNRat.num_div_den tol]
    push_cast
    rfl
  have habs : |(p : Rat) - raw| = ((max p raw - min p raw : Nat) : Rat) := by
    rcases Nat.le_total p raw with h | h
    · rw [Nat.max_eq_right h, Nat.min_eq_left h, Nat.cast_sub h, abs_of_nonpos]
      · ring
      · have : (p : Rat) ≤ raw := by exact_mod_cast h
        linarith
    · rw [Nat.max_eq_left h, Nat.min_eq_right h, Nat.cast_sub h, abs_of_nonneg]
      have : (raw : Rat) ≤ p := by exact_mod_cast h
      linarith
  rw [habs, etol, div_lt_div_iff₀ ht hd]
  simp only [accepts, decide_eq_true_eq]
  exact_mod_cast Iff.rfl

end Sys2Proof.Machine.Scheduler
end

