-- ==== Sys2Proof/Laws/Sink.lean ====
section
/-! SUPPORT. What the Sink's operations can do, said once (spec 45_display R240 to R243). -/

namespace Sys2Proof.Machine.Sink

@[simp] theorem putPixel_width (k : Sink) (x y : Nat) (p : Pixel) : (k.putPixel x y p).width = k.width := by
  unfold putPixel; split <;> rfl

@[simp] theorem putPixel_height (k : Sink) (x y : Nat) (p : Pixel) : (k.putPixel x y p).height = k.height := by
  unfold putPixel; split <;> rfl

@[simp] theorem putPixel_length (k : Sink) (x y : Nat) (p : Pixel) : (k.putPixel x y p).pixels.length = k.pixels.length := by
  unfold putPixel; split <;> simp

/-- Row-major positions are distinct for distinct pixels of one row length. -/
theorem index_inj (w x y x' y' : Nat) (hx : x < w) (hx' : x' < w) (h : y * w + x = y' * w + x') : x = x' ∧ y = y' := by
  have hy : y = y' := by
    rcases Nat.lt_trichotomy y y' with hlt | rfl | hlt
    · have := Nat.mul_le_mul_right w hlt
      rw [Nat.succ_mul] at this; omega
    · rfl
    · have := Nat.mul_le_mul_right w hlt
      rw [Nat.succ_mul] at this; omega
  subst hy
  exact ⟨by omega, rfl⟩

/-- Everything a bounds-checked write does (R241). -/
theorem putPixel_get (k : Sink) (x y j : Nat) (p : Pixel) (hl : k.pixels.length = k.width * k.height) :
    (k.putPixel x y p).pixels[j]? =
      if x < k.width ∧ y < k.height ∧ j = y * k.width + x then some p else k.pixels[j]? := by
  unfold putPixel
  by_cases h : x < k.width ∧ y < k.height
  · rw [if_pos h]
    by_cases hj : j = y * k.width + x
    · have hlt : y * k.width + x < k.pixels.length := by
        rw [hl]
        have := Nat.mul_le_mul_right k.width h.2
        rw [Nat.succ_mul] at this
        rw [Nat.mul_comm k.width]; omega
      rw [if_pos ⟨h.1, h.2, hj⟩, hj]
      simp [hlt]
    · rw [if_neg (fun e => hj e.2.2)]
      simp [Ne.symm hj]
  · rw [if_neg h, if_neg (fun e => h ⟨e.1, e.2.1⟩)]

end Sys2Proof.Machine.Sink
end

