-- ==== Sys2Proof/Tests/Slice0.lean ====
section
/-! SUPPORT. Tests and witnesses. Expected values come from the spec: the encodings of 30_encoding R96 and R103, the vectors of
95_test_vectors (their ids stand in the docstrings), the tables of R33 and R41. -/

namespace Sys2Proof.Tests

open Sys2Proof Sys2Proof.Machine

/-! ### Helpers -/

/-- The outcome is a next state that passes the check. -/
def nextSat {α : Type} (o : Host.Outcome α Fault Refusal) (p : α → Bool) : Bool :=
  match o with
  | .next t => p t
  | .fault _ => false
  | .refused _ => false

theorem next_of_nextSat {α : Type} {o : Host.Outcome α Fault Refusal} {p : α → Bool} (h : nextSat o p = true) :
    ∃ t, o = .next t ∧ p t = true := by
  cases o <;> simp [nextSat] at h
  exact ⟨_, rfl, h⟩

/-- One slot on the word `w` placed at `PC`, without timer time. -/
def after (s : State) (w : Nat) (p : State → Bool) : Bool := nextSat (step (s.withFetchWord 16 w)) p

/-- Reset with some registers set. -/
def regs (l : List (RegNum × Byte)) : State := l.foldl (fun s r => s.setReg r.1 r.2) State.reset

/-- Reset with `I` and some registers set. -/
def regsI (i : Word) (l : List (RegNum × Byte)) : State := (regs l).setI i

/-- Reset with the stack filled with `w` up to `n` entries. -/
def stacked (n : Fin 17) (w : Word) : State := { State.reset with sp := n, stack := Vector.replicate 16 w }

/-- Keys down, by number. -/
def keysOf (l : List Nat) : Vector Bool 16 := Vector.ofFn fun k => l.contains k.val

/-- Reset with keys and last keys. -/
def keyed (now last : List Nat) : State := { State.reset with keys := keysOf now, lastKeys := keysOf last }

/-- A fault was raised at the word, with `PC` two on. -/
def faults (f : Fault) (t : State) : Bool := t.fault = some f && t.pc = 0x202

/-! ### What is refused as ill-formed (R94, R95, R99, R121, R122, R151, R244) -/

theorem test_word_zero_refused : wordWellFormed 0x0000 = false := by decide
theorem test_word_machine_call_refused : wordWellFormed 0x0123 = false := by decide
theorem test_word_bad_nibble_refused : wordWellFormed 0x5121 = false ∧ wordWellFormed 0x8128 = false := by decide
theorem test_word_bad_key_minor_refused : wordWellFormed 0xE19F = false ∧ wordWellFormed 0xF1FF = false := by decide
theorem test_rom_too_long_refused : romWellFormed (List.replicate 3585 0) = false := by
  rw [romWellFormed, List.length_replicate]; rfl
theorem test_rom_longest_accepted : romWellFormed (List.replicate 3584 0) = true := by
  rw [romWellFormed, List.length_replicate]; rfl
theorem test_params_refused :
    schedulerParamsWellFormed 0 1 8 = false ∧ schedulerParamsWellFormed 10 0 8 = false ∧
      schedulerParamsWellFormed 10 8 8 = false ∧ schedulerParamsWellFormed 10 7 8 = true := by decide
/-- R138 for 13 bits with CAP = 2000 and U = 1000: samples up to 8191 and periods up to 2047 fit; each premise alone refuses. -/
theorem test_width_refused :
    let c := Scheduler.created 1000 1 2
    c.fitsWidth 13 8191 ∧ !c.fitsWidth 13 8192 ∧ ({ c with snapTable := [2047, 60] } : Scheduler).fitsWidth 13 0 ∧
      !({ c with snapTable := [2048, 60] } : Scheduler).fitsWidth 13 0 ∧ !c.fitsWidth 12 0 ∧
      !(Scheduler.created 1000 9 2).fitsWidth 13 0 := by decide
theorem test_snap_zero_refused : snapFrequencyWellFormed 0 = false := by decide
theorem test_render_size_refused : renderSizeWellFormed 63 32 = false ∧ renderSizeWellFormed 64 31 = false := by decide

/-! ### Decoding: one word for every constructor, written out from R96 -/

theorem test_decode_flow :
    decodeWord 0x00E0 = some .cls ∧ decodeWord 0x00EE = some .ret ∧ decodeWord 0x1234 = some (.jp 0x234) ∧
      decodeWord 0x2ABC = some (.call 0xABC) ∧ decodeWord 0x3142 = some (.seImm 1 0x42) ∧
      decodeWord 0x4F07 = some (.sneImm 15 0x07) ∧ decodeWord 0x5120 = some (.seReg 1 2) ∧
      decodeWord 0x9AB0 = some (.sneReg 0xA 0xB) ∧ decodeWord 0xB300 = some (.jpV0 0x300) := by decide

theorem test_decode_alu :
    decodeWord 0x61AB = some (.ldImm 1 0xAB) ∧ decodeWord 0x7105 = some (.addImm 1 0x05) ∧
      decodeWord 0x8120 = some (.ldReg 1 2) ∧ decodeWord 0x8121 = some (.orReg 1 2) ∧ decodeWord 0x8122 = some (.andReg 1 2) ∧
      decodeWord 0x8123 = some (.xorReg 1 2) ∧ decodeWord 0x8124 = some (.addReg 1 2) ∧ decodeWord 0x8125 = some (.subReg 1 2) ∧
      decodeWord 0x8126 = some (.shr 1 2) ∧ decodeWord 0x8127 = some (.subn 1 2) ∧ decodeWord 0x812E = some (.shl 1 2) ∧
      decodeWord 0xC10F = some (.rnd 1 0x0F) := by decide

theorem test_decode_index_display :
    decodeWord 0xA123 = some (.ldI 0x123) ∧ decodeWord 0xF11E = some (.addI 1) ∧ decodeWord 0xF229 = some (.ldF 2) ∧
      decodeWord 0xF333 = some (.ldB 3) ∧ decodeWord 0xF455 = some (.storeRegs 4) ∧ decodeWord 0xF565 = some (.loadRegs 5) ∧
      decodeWord 0xD125 = some (.drw 1 2 5) := by decide

theorem test_decode_keys_timers :
    decodeWord 0xE19E = some (.skp 1) ∧ decodeWord 0xE2A1 = some (.sknp 2) ∧ decodeWord 0xF307 = some (.ldVxDt 3) ∧
      decodeWord 0xF40A = some (.ldVxK 4) ∧ decodeWord 0xF515 = some (.ldDtVx 5) ∧ decodeWord 0xF618 = some (.ldStVx 6) := by decide

/-- The table's numbering: a 16-bit word, its first byte the high one (R62). -/
theorem test_decode_table_word : decodeTableWord 16 0xD125 = some (.drw 1 2 5) ∧ decodeTableWord 16 0xE19F = none := by decide

/-! ### Control transfer (vectors F1 to F32) -/

/-- F3. -/
theorem test_ret : after (stacked 16 0x31E) 0x00EE (fun t => t.pc = 0x31E && t.sp = 15 && t.fault = none) := by decide
/-- F2. -/
theorem test_ret_underflow : after State.reset 0x00EE (fun t => faults .stackUnderflow t && t.sp = 0) := by decide
/-- F7: an illegal target is no fault in the jump. -/
theorem test_jp : after State.reset 0x1100 (fun t => t.pc = 0x100 && t.fault = none) := by decide
/-- F10. -/
theorem test_call : after (stacked 15 0) 0x2300 (fun t => t.pc = 0x300 && t.sp = 16 && t.stack[15] = 0x202) := by decide
/-- F13, F14: the stack is checked first. -/
theorem test_call_faults :
    after (stacked 16 0) 0x2100 (fun t => faults .stackOverflow t) ∧ after State.reset 0x2FFF (fun t => faults .memoryOutOfBounds t) := by
  decide
/-- F18, F19. -/
theorem test_se_imm :
    after (regs [(1, 0x42)]) 0x3142 (fun t => t.pc = 0x204) ∧ after (regs [(1, 0x43)]) 0x3142 (fun t => t.pc = 0x202) := by decide
/-- F20, F21. -/
theorem test_sne_imm :
    after (regs [(1, 0x42)]) 0x4142 (fun t => t.pc = 0x202) ∧ after (regs [(1, 0x43)]) 0x4142 (fun t => t.pc = 0x204) := by decide
/-- F23, F24. -/
theorem test_se_reg :
    after (regs [(1, 7), (2, 8)]) 0x5120 (fun t => t.pc = 0x202) ∧ after (regs [(1, 7)]) 0x5110 (fun t => t.pc = 0x204) := by decide
/-- F25, F26. -/
theorem test_sne_reg :
    after (regs [(1, 7), (2, 7)]) 0x9120 (fun t => t.pc = 0x202) ∧ after (regs [(1, 7), (2, 8)]) 0x9120 (fun t => t.pc = 0x204) := by
  decide
/-- F29. -/
theorem test_jp_v0 : after (regs [(0, 0xFF)]) 0xBFFF (fun t => t.pc = 0x10FE && t.fault = none) := by decide
/-- F31: the skip is taken past the end of memory without a fault. -/
theorem test_skip_past_end :
    after { State.reset with pc := 0xFFE } 0x3100 (fun t => t.pc = 0x1002 && t.fault = none) := by decide

/-! ### Registers and ALU (vectors A1 to A39) -/

/-- A2, A4. -/
theorem test_ld_imm : after State.reset 0x6F07 (fun t => t.reg 15 = 7 && t.pc = 0x202) := by decide
/-- A3. -/
theorem test_add_imm : after (regs [(1, 0xFE), (15, 1)]) 0x7105 (fun t => t.reg 1 = 3 && t.reg 15 = 1) := by decide
/-- A6. -/
theorem test_ld_reg : after (regs [(1, 1), (2, 0x9C)]) 0x8120 (fun t => t.reg 1 = 0x9C && t.reg 2 = 0x9C) := by decide
/-- A8. -/
theorem test_or : after (regs [(1, 0xF0), (2, 0x0F), (15, 1)]) 0x8121 (fun t => t.reg 1 = 0xFF && t.reg 15 = 1) := by decide
/-- A9. -/
theorem test_and : after (regs [(1, 0xF0), (2, 0x3C), (15, 1)]) 0x8122 (fun t => t.reg 1 = 0x30 && t.reg 15 = 1) := by decide
/-- A10. -/
theorem test_xor : after (regs [(1, 0xF0), (2, 0x3C), (15, 1)]) 0x8123 (fun t => t.reg 1 = 0xCC && t.reg 15 = 1) := by decide
/-- A12, A15. -/
theorem test_add :
    after (regs [(1, 0xFF), (2, 1)]) 0x8124 (fun t => t.reg 1 = 0 && t.reg 15 = 1) ∧
      after (regs [(15, 0xFF), (1, 2)]) 0x8F14 (fun t => t.reg 15 = 1) := by decide
/-- A19, A21. -/
theorem test_sub :
    after (regs [(1, 0x10), (2, 0x20)]) 0x8125 (fun t => t.reg 1 = 0xF0 && t.reg 15 = 0) ∧
      after (regs [(1, 0x20), (2, 0x20)]) 0x8125 (fun t => t.reg 1 = 0 && t.reg 15 = 1) := by decide
/-- A25, A26: both values of SHIFT_SRC_VY. -/
theorem test_shr :
    ((shrWith false 1 2 (regs [(1, 5), (2, 0xF0)])).reg 1 = 2 ∧ (shrWith false 1 2 (regs [(1, 5), (2, 0xF0)])).reg 15 = 1) ∧
      ((shrWith true 1 2 (regs [(1, 5), (2, 0xF0)])).reg 1 = 0x78 ∧ (shrWith true 1 2 (regs [(1, 5), (2, 0xF0)])).reg 15 = 0) := by
  decide
/-- A30, A31. -/
theorem test_subn :
    after (regs [(1, 0x10), (2, 0x20)]) 0x8127 (fun t => t.reg 1 = 0x10 && t.reg 15 = 1) ∧
      after (regs [(1, 0x20), (2, 0x10)]) 0x8127 (fun t => t.reg 1 = 0xF0 && t.reg 15 = 0) := by decide
/-- A33, A34: both values of SHIFT_SRC_VY. -/
theorem test_shl :
    ((shlWith false 1 2 (regs [(1, 0x81), (2, 1)])).reg 1 = 2 ∧ (shlWith false 1 2 (regs [(1, 0x81), (2, 1)])).reg 15 = 1) ∧
      ((shlWith true 1 2 (regs [(1, 0x81), (2, 1)])).reg 1 = 2 ∧ (shlWith true 1 2 (regs [(1, 0x81), (2, 1)])).reg 15 = 0) := by
  decide
/-- A38, whatever the draw: masked by 00 the result is 0. -/
theorem test_rnd (s : State) : ∃ t, exec (.rnd 1 0) s = .next t ∧ t.reg 1 = 0 := ⟨_, rfl, by simp⟩

/-! ### Index register and memory (vectors M1 to M33) -/

/-- M2. -/
theorem test_ld_i : after State.reset 0xAFFF (fun t => t.i = 0xFFF) := by decide
/-- M4, M5. -/
theorem test_add_i :
    after (regsI 0xFFF [(1, 1)]) 0xF11E (fun t => t.i = 0x1000 && t.reg 15 = 0) ∧
      after (regsI 0xFFFF [(1, 2)]) 0xF11E (fun t => t.i = 1) := by decide
/-- M7, M8. -/
theorem test_ld_f :
    after (regs [(1, 0x1A)]) 0xF129 (fun t => t.i = 0x32) ∧ after (regs [(1, 0x0F)]) 0xF129 (fun t => t.i = 0x4B) := by decide
/-- M14, M15. -/
theorem test_ld_b :
    after (regsI 0xFFD [(1, 199)]) 0xF133
        (fun t => t.mem.readByte 0xFFD = 1 && t.mem.readByte 0xFFE = 9 && t.mem.readByte 0xFFF = 9 && t.i = 0xFFD) ∧
      after (regsI 0xFFE [(1, 199)]) 0xF133 (fun t => faults .memoryOutOfBounds t && t.mem.readByte 0xFFE = 0) := by decide
/-- M18: an instruction overwrites itself and is fetched back changed. -/
theorem test_store_overwrites_code : after (regsI 0x200 [(1, 0x7B)]) 0xF133 (fun t => t.mem.readWord 0x200 = 0x0102) := by decide
/-- M19, M23. -/
theorem test_store_regs :
    after (regsI 0x300 [(0, 0x11), (1, 0x22), (2, 0x33), (3, 0x44)]) 0xF255
        (fun t => t.mem.readByte 0x300 = 0x11 && t.mem.readByte 0x302 = 0x33 && t.mem.readByte 0x303 = 0 && t.i = 0x300) ∧
      after (regsI 0x1FF [(0, 0x11)]) 0xF055 (fun t => faults .memoryOutOfBounds t && t.mem.readByte 0x200 = 0xF0) := by decide
/-- M32, M29. -/
theorem test_load_regs :
    after (regsI 0x200 []) 0xFF65 (fun t => t.reg 0 = 0xFF && t.reg 1 = 0x65 && t.reg 2 = 0) ∧
      after (regsI 0x4F [(0, 1), (1, 2)]) 0xF165 (fun t => faults .memoryOutOfBounds t && t.reg 0 = 1 && t.reg 1 = 2) := by decide

/-! ### Display (vectors X1 to X9) -/

/-- The sprite of X7 at 0x210. -/
def spriteAt210 (x y : Byte) : State :=
  (regsI 0x210 [(1, x), (2, y), (15, 1)]).setMem (Memory.writeBytes [] 0x210 [0x81, 0x42, 0x24, 0x18, 0xFF])

/-- X1. -/
theorem test_cls :
    after { regs [(15, 1)] with screen := Vector.replicate 256 0x55 } 0x00E0
      (fun t => t.screen[0] = 0 && t.screen[100] = 0 && t.screen[255] = 0 && t.reg 15 = 1) := by decide
/-- X7: both wraps. -/
theorem test_draw :
    after (spriteAt210 63 31) 0xD125 (fun t =>
      t.screen[255] = 0x01 && t.screen[0] = 0x84 && t.screen[1] = 0x48 && t.screen[2] = 0x30 && t.screen[3] = 0xFE &&
        t.screen[31] = 0x02 && t.screen[227] = 0x01 && t.screen[224] = 0 && t.reg 15 = 0) := by decide
/-- X9 and the coordinate check of R234. -/
theorem test_draw_empty_and_off_screen :
    after (regsI 0x100 [(15, 1)]) 0xD120 (fun t => t.reg 15 = 0 && t.fault = none) ∧
      after (regsI 0x100 [(1, 64)]) 0xD125 (fun t => faults .invalidDrawCoordinates t) := by decide
/-- R238 (e): the second draw of FF at (4, 0) over one at (0, 0). -/
theorem test_draw_collides :
    after { regsI 0x210 [(1, 4)] with mem := Memory.writeBytes [] 0x210 [0xFF], screen := (Vector.replicate 256 0).set 0 0xFF } 0xD121
      (fun t => t.screen[0] = 0xF0 && t.screen[32] = 0xF0 && t.reg 15 = 1) := by decide

/-! ### Keys and timers (vectors K1 to K18) -/

/-- K4, K3. -/
theorem test_skp :
    after ((keyed [15] []).setReg 1 15) 0xE19E (fun t => t.pc = 0x204) ∧
      after (regs [(1, 16)]) 0xE19E (fun t => faults .unknownKey t) := by decide
/-- K5, K6. -/
theorem test_sknp :
    after ((keyed [5] []).setReg 1 5) 0xE1A1 (fun t => t.pc = 0x202) ∧ after (regs [(1, 5)]) 0xE1A1 (fun t => t.pc = 0x204) := by
  decide
/-- K8. -/
theorem test_ld_vx_dt : after (State.reset.setDt 0x2A) 0xF107 (fun t => t.reg 1 = 0x2A) := by decide
/-- K14, K18: a press edge waits and is latched; the lowest released key wins. -/
theorem test_ld_vx_k :
    after ((keyed [7] []).setReg 1 0x99) 0xF10A (fun t => t.pc = 0x200 && t.reg 1 = 0x99 && t.lastKeys[7]) ∧
      after (keyed [3] [3, 9]) 0xF10A (fun t => t.reg 1 = 9 && t.pc = 0x202 && !t.lastKeys[9]) := by decide
/-- K9. -/
theorem test_ld_dt_vx : after (regs [(1, 0x3C)]) 0xF115 (fun t => t.dt = 0x3C) := by decide
/-- K10. -/
theorem test_ld_st_vx : after (regs [(1, 5)]) 0xF118 (fun t => t.st = 5 && t.soundOn) := by decide

/-! ### Slots and steps (T3b, T4, R41) -/

/-- T4's start: `1200` at the entry point, DT = 4, ST = 2. -/
def t4 : State := { State.reset with dt := 4, st := 2, mem := Memory.writeBytes [] 512 [0x12, 0x00] }

/-- T4's first slot: an increment of 3/2 takes one tick from both timers. -/
theorem test_timer_tick : (t4.timerTick (3 / 2)).dt = 3 ∧ (t4.timerTick (3 / 2)).st = 1 ∧ (t4.timerTick (3 / 2)).timerAcc = 1 / 2 := by
  have h : ⌊(0 : Rat) + 3 / 2⌋₊ = 1 := by norm_num
  rw [State.timerTick_eq]
  show dropTimer 4 ⌊(0 : Rat) + 3 / 2⌋₊ = 3 ∧ dropTimer 2 ⌊(0 : Rat) + 3 / 2⌋₊ = 1 ∧ (0 : Rat) + 3 / 2 - ⌊(0 : Rat) + 3 / 2⌋₊ = 1 / 2
  rw [h]
  exact ⟨by decide, by decide, by norm_num⟩

/-- T4's first step: two slots of 3/2 each. -/
theorem test_step_block :
    nextSat (stepBlockWith 2 1 3 1 t4) (fun t => t.dt = 1 && t.st = 0 && t.timerAcc = 0 && t.instrAcc = 0 && t.fault = none) := by
  decide +kernel

/-- T3b: after a fault only the accumulator moves. -/
theorem test_fault_sticks :
    nextSat (stepBlockWith (5 / 2) 1 1 1 (State.reset.raise .unknownInstruction)) (fun t => t.pc = 0x200 && t.instrAcc = 1 / 2) := by
  decide +kernel

/-! ### Scheduler (vectors S1b, S5, S6) -/

/-- S1b: a first sample below one unit, then a short delta. -/
theorem test_advance_short_delta :
    let c := ((Scheduler.created 1000 1 8).advanceWith 0 1).2
    c.lastTime = 1000 ∧ (c.advanceWith 0 1001).1 = 0 ∧ (c.advanceWith 0 1001).2.accumulator = 750 ∧
      (c.advanceWith 0 1001).2.residual = 1 := by decide

/-- S6: the fifth call returns the maximum and resynchronises. -/
theorem test_advance_overflow :
    Scheduler.feed 0 [5000, 1005000, 2005000, 3005000, 4005000] (Scheduler.created 1000 2 9) =
      ([0, 4, 4, 8, 9], Scheduler.created 1000 2 9) := by decide

/-- S5: 60, 120 and 30 Hz; 16700 snaps to 16667, 16900 does not. -/
theorem test_snap :
    let c : Scheduler := { Scheduler.created 16667 1 8 with snapTable := [60, 120, 30].map (snapPeriod 1000000) }
    c.snapTable = [16667, 8334, 33334] ∧ c.snapped (1 / 100) 16700 = 16667 ∧ c.snapped (1 / 100) 16900 = 16900 := by decide +kernel

/-! ### Sink (R240, R245) -/

/-- A Sink of one colour. -/
def sinkOf (w h : Nat) : Sink := ⟨w, h, List.replicate (w * h) ⟨1, 2, 3, 4⟩⟩

/-- R243 on a Sink two pixels high: the bitmap's top row goes to the Sink's row 1, white for 1 and black for 0. -/
theorem test_render_pixel :
    ((sinkOf 2 2).renderPixel ((Vector.replicate 256 0).set 0 0x80) 0 0).pixels[2]? = some ⟨255, 255, 255, 255⟩ ∧
      ((sinkOf 2 2).renderPixel ((Vector.replicate 256 0).set 0 0x80) 0 1).pixels[3]? = some ⟨0, 0, 0, 255⟩ := by decide

/-- R240: a new shape of the same byte size keeps the bytes. -/
theorem test_resize_keeps : ((sinkOf 4 2).setResolution 0 2 4).pixels = (sinkOf 4 2).pixels := by decide

/-! ### Witnesses: a state and operands that meet the hypotheses of an obligation together -/

/-- A state whose next step runs `w`. -/
def placed (w : Nat) : State := State.reset.withFetchWord 16 w

theorem witness_DecodeAndEncodeAgree : (Instr.drw 1 2 5).wellFormed = true ∧ decodeWord 0xD125 = some (.drw 1 2 5) := by decide

theorem witness_DecodeFollowsTheRows :
    (⟨"SKP_Vx", 0xE09E, 0xF0FF⟩ : OpcodeRow) ∈ opcodeRows ∧ (0xE19E#16 &&& 0xF0FF) = 0xE09E ∧ decodeWord 0xE19E = some (.skp 1) := by
  decide

theorem witness_StepRunsDecodedInstruction :
    ∃ (s u : State) (c : StepCall) (i : Instr), s.call = some c ∧ s.fault = none ∧ fetchLegal s.pc.toNat = true ∧
      decode [s.mem.readByte s.pc.toNat, s.mem.readByte (s.pc.toNat + 1)] = .ok (i, []) ∧
      exec i { s.timerTick c.tdpi with pc := s.pc + 2#16 } = .next u :=
  ⟨placed 0x6342, _, ⟨1, 0⟩, .ldImm 3 0x42, by decide, by decide, by decide, by decide, rfl⟩

theorem witness_TimerTickOfASlot : (0 : Rat) ≤ { State.reset with timerAcc := 1 / 2 }.timerAcc ∧ (0 : Rat) ≤ 3 / 2 := by
  constructor <;> norm_num

theorem witness_FetchCheckFaults :
    ∀ pc ∈ [79, 80, 511, 4095, 4096], ¬ ((pc < 80 ∨ (512 ≤ pc ∧ pc < 4096)) ∧ (pc + 1 < 80 ∨ (512 ≤ pc + 1 ∧ pc + 1 < 4096))) := by
  decide

theorem witness_UnmatchedWordFaults :
    fetchLegal State.reset.pc.toNat = true ∧
      decode [State.reset.mem.readByte State.reset.pc.toNat, State.reset.mem.readByte (State.reset.pc.toNat + 1)] =
        .error (.unknownInstruction 0) := by decide

theorem witness_KeyLatchAtSlotEnd :
    (∃ t, slot 0 (placed 0x6342) = .next t ∧ decide (t.fault = none) = true) ∧
      (∃ t, slot 0 (placed 0x00EE) = .next t ∧ decide (t.fault ≠ none) = true) :=
  ⟨next_of_nextSat (by decide), next_of_nextSat (by decide)⟩

theorem witness_FaultLeavesTheRest :
    (placed 0x00EE).fault = none ∧ ∃ t, slot 0 (placed 0x00EE) = .next t ∧ decide (t.fault = some .stackUnderflow) = true :=
  ⟨rfl, next_of_nextSat (by decide)⟩

theorem witness_NothingElseMovesWithoutSlots :
    ((0 : Rat) ≤ 0 + 5 / 2 * 1 * 1 ∧ (State.reset.raise .unknownKey).fault ≠ none) ∧
      ((0 : Rat) ≤ 0 + 2 / 5 * 1 * 1 ∧ (0 : Rat) + 2 / 5 * 1 * 1 < 1) ∧
      ((0 : Rat) ≤ (State.reset.raise .unknownKey).instrAcc ∧ (State.reset.raise .unknownKey).call = none) := by
  refine ⟨⟨by norm_num, by decide⟩, ⟨by norm_num, by norm_num⟩, le_refl _, rfl⟩

theorem witness_BudgetOfACall :
    (State.reset.fault = none ∧ 1 ≤ ⌊State.reset.instrAcc + 10 * 1 * 1⌋₊) ∧
      ∃ t, step { placed 0x6342 with call := some ⟨2, 0⟩ } = .next t ∧ decide (t.call = some ⟨1, 0⟩) = true := by
  refine ⟨⟨rfl, ?_⟩, next_of_nextSat (by decide)⟩
  show 1 ≤ ⌊(0 : Rat) + 10 * 1 * 1⌋₊
  norm_num

theorem witness_StepsRefineTheBlock : State.reset.call = none := rfl

theorem witness_TimerTimeConserved :
    (0 : Rat) ≤ t4.timerAcc ∧ (0 : Rat) ≤ 3 * 1 ∧ 1 ≤ ⌊(0 : Rat) + 2 * 1 * 1⌋₊ ∧ t4.fault = none ∧
      ∃ t, stepBlockWith 2 1 3 1 t4 = .next t ∧ t.fault = none := by
  obtain ⟨t, h, hp⟩ := next_of_nextSat test_step_block
  simp only [Bool.and_eq_true, decide_eq_true_eq] at hp
  exact ⟨le_refl _, by norm_num, by norm_num, rfl, t, h, hp.2⟩

/-- The invariant holds of a state with a word placed and a call open. -/
theorem placed_inv (w : Nat) : (placed w).Inv := by
  refine ⟨?_, ?_, by show 512 ≤ 0x10FE; decide, ?_, ?_, ?_, ?_, by simp [placed, State.withFetchWord, State.placeWord], ?_, rfl⟩
  · exact Memory.writeBytes_wf _ _ _ (by show 512 + 2 ≤ 4096; decide) rfl
  · intro a ha
    show (Memory.writeBytes [] 512 _).readByte a = _
    rw [Memory.readByte_writeBytes, dif_neg (by omega)]
    rfl
  · intro k
    show ((Vector.replicate 16 (0 : Word))[k]).toNat ≤ 4096
    simp
  · constructor <;> simp [placed, State.withFetchWord, State.placeWord, State.reset]
  · constructor <;> simp [placed, State.withFetchWord, State.placeWord, State.reset]
  · intro c hc
    cases hc
    exact ⟨le_refl _, le_refl _, rfl⟩
  · have h1 := Config.tickPerStep.pos
    have h2 := Config.stepMult.pos
    have h3 := Config.stepMaxExcess.pos
    refine ⟨?_, Nat.two_pow_pos _, ?_, Nat.mul_pos h1 h2, ?_, Nat.zero_le _, fun k => .inl ?_⟩
    · simp only [schedulerParamsWellFormed, Bool.and_eq_true, decide_eq_true_eq]
      exact ⟨⟨h1, h2⟩, Nat.lt_add_of_pos_right h3⟩
    · exact Nat.zero_le _
    · intro p hp; cases hp
    · show (Vector.replicate 4 (Config.tickPerStep : Nat))[k] ≤ Config.tickPerStep * (Config.stepMult + Config.stepMaxExcess)
      simp only [Fin.getElem_fin, Vector.getElem_replicate]
      exact Nat.le_mul_of_pos_right _ (by omega)

theorem witness_StepKeepsInvariant : (placed 0x6342).Inv ∧ ∃ t, step (placed 0x6342) = .next t ∧ true = true :=
  ⟨placed_inv _, next_of_nextSat (p := fun _ => true) (by decide)⟩

theorem witness_DriverOperationsKeepInvariant :
    ∃ s : State, s.Inv ∧ s.call = none ∧ perform (.clear ⟨0, 0, 0, 0⟩) s = .next (s.setSink (s.sink.clear ⟨0, 0, 0, 0⟩)) := by
  have h := placed_inv 0x6342
  exact ⟨(placed 0x6342).setCall none,
    ⟨h.memWf, h.lowMem, h.pcBound, h.stackBound, h.instrAcc, h.timerAcc, fun c hc => (by cases hc), h.noRegisterFault, h.sched, h.sink⟩, rfl, rfl⟩

theorem witness_CreateGivesResetValues :
    State.reset.call = none ∧ (List.replicate 3584 (0x60 : Byte)).length ≤ 3584 ∧ 3584 < (List.replicate 3585 (0x60 : Byte)).length := by
  rw [List.length_replicate, List.length_replicate]; exact ⟨rfl, by decide, by decide⟩

theorem witness_RefusedOperations :
    State.reset.call = none ∧ 3584 < (List.replicate 3585 (0 : Byte)).length ∧ (placed 0x6342).call ≠ none := by
  refine ⟨rfl, by rw [List.length_replicate]; decide, by decide⟩

theorem witness_KeysComeFromSetKeys :
    t4.call = none ∧ (∃ t, create [0x12, 0x00] t4 = .next t) ∧
      (∃ op t, (∀ rom, op ≠ DriverOp.create rom) ∧ (∀ k, op ≠ .setKeys k) ∧ perform op t4 = .next t) ∧
      (∃ t, step (placed 0x6342) = .next t) ∧ ∃ t, stepBlockWith 2 1 3 1 t4 = .next t :=
  ⟨rfl, ⟨_, rfl⟩, ⟨.resync, _, fun _ h => (by cases h), fun _ h => (by cases h), rfl⟩,
    (next_of_nextSat (p := fun _ => true) (by decide)).imp fun _ h => h.1, (next_of_nextSat test_step_block).imp fun _ h => h.1⟩

theorem witness_ReturnPopsOrUnderflows :
    (stacked 1 0x206).sp.val = (0 : Fin 16).val + 1 ∧ (stacked 16 0x31E).sp.val = (15 : Fin 16).val + 1 ∧ State.reset.sp.val = 0 := by
  decide

theorem witness_CallPushesOrFaults :
    (State.reset.sp.val = (0 : Fin 16).val ∧ ∀ n ∈ [78, 512, 4094], n < 79 ∨ (512 ≤ n ∧ n < 4095)) ∧ (stacked 16 0).sp.val = 16 ∧
      ((stacked 15 0).sp.val < 16 ∧ ∀ n ∈ [79, 511, 4095], ¬ (n < 79 ∨ (512 ≤ n ∧ n < 4095))) := by decide

theorem witness_ReturnResumesAfterCall :
    (stacked 15 0).sp.val < 16 ∧ ∃ t, exec (.call 0x300) (stacked 15 0) = .next t ∧ decide (t.fault = none) = true :=
  ⟨by decide, next_of_nextSat (by decide)⟩

theorem witness_ShiftByOne : ∃ src : RegNum, src = (if Config.shiftSrcVy then 2 else 1) := ⟨_, rfl⟩

theorem witness_StoreDecimalDigits :
    (∀ i ∈ [512, 4093], 512 ≤ (State.reset.setI (BitVec.ofNat 16 i)).i.toNat ∧ (State.reset.setI (BitVec.ofNat 16 i)).i.toNat ≤ 4093) ∧
      ∀ i ∈ [511, 4094], (State.reset.setI (BitVec.ofNat 16 i)).i.toNat < 512 ∨ 4093 < (State.reset.setI (BitVec.ofNat 16 i)).i.toNat := by
  decide

theorem witness_StoreRegisterRange :
    (512 ≤ (State.reset.setI 0xFF0).i.toNat ∧ (State.reset.setI 0xFF0).i.toNat + (15 : RegNum).toNat ≤ 4095) ∧
      4095 < (State.reset.setI 0xFF1).i.toNat + (15 : RegNum).toNat ∧ (State.reset.setI 0x1FF).i.toNat < 512 := by decide

theorem witness_LoadRegisterRange :
    (∀ j ≤ (1 : RegNum).toNat, (State.reset.setI 78).i.toNat + j < 80 ∨
        (512 ≤ (State.reset.setI 78).i.toNat + j ∧ (State.reset.setI 78).i.toNat + j < 4096)) ∧
      ∃ j ≤ (1 : RegNum).toNat, ¬ ((State.reset.setI 79).i.toNat + j < 80 ∨
        (512 ≤ (State.reset.setI 79).i.toNat + j ∧ (State.reset.setI 79).i.toNat + j < 4096)) := by decide

theorem witness_StoreThenLoadRestores :
    ∃ s t u : State, exec (.storeRegs 15) s = .next t ∧ t.fault = none ∧ u.mem = t.mem ∧ u.i = t.i :=
  ⟨State.reset.setI 0xFF0, _, _, rfl, by decide, rfl, rfl⟩

theorem witness_StoreIsFetchedBack :
    (14 : RegNum) < 15 ∧ ∃ t, exec (.storeRegs 15) (State.reset.setI 0xFF0) = .next t ∧ decide (t.fault = none) = true :=
  ⟨by decide, next_of_nextSat (by decide)⟩

theorem witness_DrawInvertsPixels :
    ((spriteAt210 63 31).reg 1).toNat < 64 ∧ ((spriteAt210 63 31).reg 2).toNat < 32 ∧
      readLegal (spriteAt210 63 31).i.toNat (5 : BitVec 4).toNat = true := by decide

theorem witness_DrawCollisionFlag :
    ((spriteAt210 63 31).reg 15).toNat < 64 ∧ ((spriteAt210 63 31).reg 2).toNat < 32 ∧
      readLegal (spriteAt210 63 31).i.toNat (15 : BitVec 4).toNat = true := by decide

theorem witness_DrawFaults :
    64 ≤ ((spriteAt210 64 0).reg 1).toNat ∧ 32 ≤ ((spriteAt210 0 32).reg 2).toNat ∧
      (((regsI 79 []).reg 1).toNat < 64 ∧ ((regsI 79 []).reg 2).toNat < 32 ∧
        ∃ r < (2 : BitVec 4).toNat, ¬ ((regsI 79 []).i.toNat + r < 80 ∨ (512 ≤ (regsI 79 []).i.toNat + r ∧ (regsI 79 []).i.toNat + r < 4096))) := by
  decide

theorem witness_DrawTwiceRestores :
    (((spriteAt210 63 31).reg 1).toNat < 64 ∧ ((spriteAt210 63 31).reg 2).toNat < 32 ∧
      readLegal (spriteAt210 63 31).i.toNat (5 : BitVec 4).toNat = true) ∧
    (∃ r < (5 : BitVec 4).toNat, (spriteAt210 63 31).mem.readByte ((spriteAt210 63 31).i.toNat + r) ≠ 0) ∧
    (∀ k : Fin 256, (spriteAt210 63 31).screen[k] = 0) := by
  refine ⟨by decide, by decide, fun k => ?_⟩
  show (Vector.replicate 256 (0 : Byte))[k] = 0
  simp

theorem witness_SkipsOnKeys :
    ((regs [(1, 15)]).reg 1).toNat = (15 : Fin 16).val ∧ ((regs []).reg 1).toNat = (0 : Fin 16).val ∧ 15 < ((regs [(1, 16)]).reg 1).toNat := by
  decide

theorem witness_KeyWaitOnRelease :
    ((keyed [3] [3, 9]).lastKeys[(9 : Fin 16)] = true ∧ (keyed [3] [3, 9]).keys[(9 : Fin 16)] = false ∧
      ∀ j : Fin 16, j < 9 → ¬ ((keyed [3] [3, 9]).lastKeys[j] = true ∧ (keyed [3] [3, 9]).keys[j] = false)) ∧
    ∀ k : Fin 16, ¬ ((keyed [7] [7]).lastKeys[k] = true ∧ (keyed [7] [7]).keys[k] = false) := by decide

theorem witness_InstructionsIgnoreTiming : ∃ t, exec (.ldImm 3 0x42) State.reset = .next t := ⟨_, rfl⟩

/-- S6 before its fifth call. -/
def beforeOverflow : Scheduler :=
  { Scheduler.created 1000 2 9 with lastTime := 3005000, accumulator := 1000, history := #v[2000, 9000, 9000, 9000] }

theorem witness_ResyncState :
    State.reset.call = none ∧
      (let c := beforeOverflow
       let h := c.pushed (c.snapped 0 (c.rawDelta 4005000))
       let total := c.accumulator + historySum h / 4 + (c.residual + historySum h % 4) / 4
       c.stepMaximum < total / c.tickPerStep - total / c.tickPerStep % c.stepMultiplicity) :=
  ⟨rfl, by decide⟩

theorem witness_AdvanceMeasuresDelta :
    1 ≤ beforeOverflow.tickPerStep ∧ 1 ≤ beforeOverflow.stepMultiplicity ∧ (beforeOverflow.advanceWith 0 3006000).2.lastTime ≠ 0 ∧
      ((Scheduler.created 1000 2 9).advanceWith 0 5).2.lastTime ≠ 0 := by decide

theorem witness_SnapFirstMatch :
    ∃ c : Scheduler, 1 ≤ c.tickPerStep ∧ c.snapTable = [8334] ++ 16667 :: [33334] ∧
      (∀ q ∈ [8334], ¬ (|((q : Nat) : Rat) - (16700 : Nat)| / c.tickPerStep < ((1 / 100 : NNRat) : Rat))) ∧
      |((16667 : Nat) : Rat) - (16700 : Nat)| / c.tickPerStep < ((1 / 100 : NNRat) : Rat) ∧
      (∀ q ∈ c.snapTable, ¬ (|((q : Nat) : Rat) - (16900 : Nat)| / c.tickPerStep < ((1 / 100 : NNRat) : Rat))) := by
  refine ⟨{ Scheduler.created 16667 1 8 with snapTable := [8334, 16667, 33334] }, by decide, rfl, ?_, ?_, ?_⟩ <;>
    norm_num [Scheduler.created, abs_of_nonneg, abs_of_nonpos]

theorem witness_AdvanceBounds :
    1 ≤ beforeOverflow.tickPerStep ∧ 1 ≤ beforeOverflow.stepMultiplicity ∧ (beforeOverflow.advanceWith 0 3006000).2.lastTime ≠ 0 ∧
      (beforeOverflow.advanceWith 0 4005000).2.lastTime = 0 ∧ State.reset.call = none := by decide

theorem witness_AdvanceConservesTicks :
    1 ≤ beforeOverflow.tickPerStep ∧ 1 ≤ beforeOverflow.stepMultiplicity ∧ (beforeOverflow.advanceWith 0 3006000).2.lastTime ≠ 0 := by
  decide

theorem witness_AdvanceStaysInWidth :
    (Scheduler.created 1000 1 8).Inv ∧ (Scheduler.created 1000 1 8).lastTime < 2 ^ 16 ∧
      (Scheduler.created 1000 1 8).WidthPremises 16 5000 := by
  refine ⟨⟨by decide, Nat.two_pow_pos _, by decide, by decide, ?_, Nat.zero_le _, by decide⟩, by decide, (Scheduler.fitsWidth_iff _ _ _).1 (by decide)⟩
  intro p hp; cases hp

theorem witness_SteadyInputGivesOneStepEach :
    let c := Scheduler.created 1000 1 8
    1 ≤ c.tickPerStep ∧ c.stepMultiplicity = 1 ∧ 1 < c.stepMaximum ∧ c.lastTime = 0 ∧ c.accumulator = 0 ∧ c.residual = 0 ∧
      (∀ j : Fin 4, c.history[j] = c.tickPerStep) ∧ c.snapped 0 c.tickPerStep = c.tickPerStep ∧ c.tickPerStep ≤ 5000 := by decide

theorem witness_RegisterSnapAppends :
    (Scheduler.created 1000 1 8).snapTable.length < 1 ∧ 1 ≤ 60 ∧ 0 ≤ (Scheduler.created 1000 1 8).snapTable.length ∧
      State.reset.call = none ∧ ∃ r, State.reset.sched.registerSnapWith Config.ticksPerSecond Config.snapCap 0 = .refused r := by
  refine ⟨by decide, by decide, by decide, rfl, ?_⟩
  rcases State.reset.sched.registerSnapWith_cases Config.ticksPerSecond Config.snapCap 0 with ⟨_, h, _⟩ | ⟨_, h⟩ | ⟨_, _, h⟩
  · cases h
  · exact ⟨_, h⟩
  · exact ⟨_, h⟩

theorem witness_ClearFillsSink :
    State.reset.call = none ∧ State.reset.sink.pixels = [] ∧ ∃ t, exec .cls State.reset = .next t := ⟨rfl, rfl, _, rfl⟩

theorem witness_ResizeAndSetPixel :
    (State.reset.setSink (sinkOf 4 2)).call = none ∧ (State.reset.setSink (sinkOf 4 2)).sink.Inv ∧ 3 < (sinkOf 4 2).width ∧
      1 < (sinkOf 4 2).height ∧ ¬ ((0 : Int) ≤ 4 ∧ (4 : Int) < ((sinkOf 4 2).width : Int)) ∧ 2 * 4 = (sinkOf 4 2).width * (sinkOf 4 2).height := by
  refine ⟨rfl, rfl, ?_⟩; decide

theorem witness_RenderFlipsVertically :
    (State.reset.setSink (sinkOf 64 32)).call = none ∧ (sinkOf 64 32).Inv ∧ 64 ≤ (sinkOf 64 32).width ∧ 32 ≤ (sinkOf 64 32).height ∧
      (sinkOf 63 32).Inv ∧ (sinkOf 63 32).width < 64 ∧ (sinkOf 64 31).Inv ∧ (sinkOf 64 31).height < 32 := by
  simp only [Sink.Inv, sinkOf, List.length_replicate]
  decide

end Sys2Proof.Tests
end

section
/-! The slot does not see the call: instructions and slots commute with replacing the timing machinery, the other units or the open call
(00_scope R8, 41_vm_step R168). -/

namespace Sys2Proof.Machine

/-! Sequencing through a branch and through another sequence. -/

theorem andThen_ite {α β : Type} (p : Prop) [Decidable p] (a b : Host.Outcome α Fault Refusal) (f : α → Host.Outcome β Fault Refusal) :
    andThen (if p then a else b) f = if p then andThen a f else andThen b f :=
  apply_ite (andThen · f) p a b

theorem andThen_dite {α β : Type} (p : Prop) [Decidable p] (a : p → Host.Outcome α Fault Refusal)
    (b : ¬ p → Host.Outcome α Fault Refusal) (f : α → Host.Outcome β Fault Refusal) :
    andThen (if h : p then a h else b h) f = if h : p then andThen (a h) f else andThen (b h) f :=
  apply_dite (andThen · f) p a b

theorem andThen_assoc {α β γ : Type} (o : Host.Outcome α Fault Refusal) (f : α → Host.Outcome β Fault Refusal)
    (g : β → Host.Outcome γ Fault Refusal) : andThen (andThen o f) g = andThen o fun a => andThen (f a) g := by
  cases o <;> rfl

/-! The shared operations with the timing of another state. -/

theorem State.skipIf_withTimingOf (s o : State) (c : Bool) : (s.withTimingOf o).skipIf c = (s.skipIf c).withTimingOf o := by
  cases c <;> rfl

theorem State.loadRange_withTimingOf (s o : State) (a n : Nat) :
    (s.withTimingOf o).loadRange a n = (s.loadRange a n).withTimingOf o := by
  induction n with
  | zero => rfl
  | succ n ih => simp only [State.loadRange, ih]; rfl

theorem storeAtI_withTimingOf (bs : List Byte) (s o : State) :
    storeAtI bs (s.withTimingOf o) = (storeAtI bs s).withTimingOf o := by
  simp only [storeAtI, apply_ite (State.withTimingOf · o)]; rfl

/-- No instruction sees the timing machinery, the Scheduler or the Sink (R168): with those of `o` it does the same and leaves them. -/
theorem exec_withTimingOf (i : Instr) (s o : State) :
    exec i (s.withTimingOf o) = andThen (exec i s) fun t => .next (t.withTimingOf o) := by
  cases i with
  | ret => simp only [exec, execRet, andThen_dite]; rfl
  | call nnn => simp only [exec, execCall, andThen_dite, andThen_ite]; rfl
  | drw x y n => simp only [exec, execDrw, andThen_ite]; rfl
  | skp x => simp only [exec, execSkp, State.skipIf_withTimingOf, andThen_ite]; rfl
  | sknp x => simp only [exec, execSknp, State.skipIf_withTimingOf, andThen_ite]; rfl
  | ldVxK x =>
    have same_key : (s.withTimingOf o).releasedKey = s.releasedKey := rfl
    simp only [exec, execLdVxK, same_key]
    cases s.releasedKey <;> rfl
  | loadRegs x => simp only [exec, execLoadRegs, State.loadRange_withTimingOf, andThen_ite]; rfl
  | ldB x => exact congrArg _ (storeAtI_withTimingOf _ s o)
  | storeRegs x => exact congrArg _ (storeAtI_withTimingOf _ s o)
  | seImm x kk => exact congrArg _ (State.skipIf_withTimingOf s o _)
  | sneImm x kk => exact congrArg _ (State.skipIf_withTimingOf s o _)
  | seReg x y => exact congrArg _ (State.skipIf_withTimingOf s o _)
  | sneReg x y => exact congrArg _ (State.skipIf_withTimingOf s o _)
  | _ => rfl

/-! With another call open. -/

theorem exec_setCall (i : Instr) (s : State) (c : Option StepCall) :
    exec i (s.setCall c) = andThen (exec i s) fun t => .next (t.setCall c) := by
  rw [show s.setCall c = s.withTimingOf (s.setCall c) from rfl, exec_withTimingOf]
  cases h : exec i s with
  | next t =>
    obtain ⟨-, -, -, hacc, htimer, hsched, hsink⟩ := exec_untouched i s t h
    simp [State.withTimingOf, State.setCall, ← hacc, ← htimer, ← hsched, ← hsink]
  | fault f => rfl
  | refused r => rfl

theorem finishSlot_setCall (t : State) (c : Option StepCall) : finishSlot (t.setCall c) = (finishSlot t).setCall c := by
  simp only [finishSlot, apply_ite (State.setCall · c)]; rfl

theorem runWord_of_decodes {w : Word} {i : Instr} (h : decodeWord w = some i) (t : State) :
    runWord w t = andThen (exec i t) fun u => .next (finishSlot u) := by
  simp only [runWord, h]
  cases exec i t <;> rfl

theorem runWord_of_unmatched {w : Word} (h : decodeWord w = none) (t : State) :
    runWord w t = .next (t.raise .unknownInstruction) := by
  simp only [runWord, h]

theorem runWord_setCall (w : Word) (t : State) (c : Option StepCall) :
    runWord w (t.setCall c) = andThen (runWord w t) fun u => .next (u.setCall c) := by
  cases h : decodeWord w with
  | none => rw [runWord_of_unmatched h, runWord_of_unmatched h]; rfl
  | some i => simp only [runWord_of_decodes h, exec_setCall, andThen_assoc, andThen_next, finishSlot_setCall]

/-- A slot neither sees nor touches the call it belongs to. -/
theorem slot_setCall (q : Rat) (s : State) (c : Option StepCall) :
    slot q (s.setCall c) = andThen (slot q s) fun t => .next (t.setCall c) := by
  simp only [slot, fetchAndRun, andThen_ite, ← runWord_setCall]
  rfl

/-- A slot leaves the Scheduler, the Sink and the call alone, and the accumulator of the budget. -/
theorem slot_untouched (q : Rat) (s t : State) (h : slot q s = .next t) :
    t.call = s.call ∧ t.instrAcc = s.instrAcc ∧ t.sched = s.sched ∧ t.sink = s.sink := by
  rcases slot_cases q s t h with ⟨-, rfl⟩ | ⟨-, -, rfl⟩ | ⟨-, i, u, -, hu, rfl⟩
  · exact ⟨rfl, rfl, rfl, rfl⟩
  · exact ⟨rfl, rfl, rfl, rfl⟩
  · obtain ⟨-, -, hcall, hacc, -, hsched, hsink⟩ := exec_untouched i _ u hu
    rw [finishSlot_frame]
    exact ⟨hcall, hacc, hsched, hsink⟩

end Sys2Proof.Machine
end

section
/-! The step relation in slots against the block `step(DELTA)` (00_scope R8, 41_vm_step R154 to R164). -/

namespace Sys2Proof.Machine

/-! The slot loop, branch by branch. -/

theorem runSlots_of_fault (q : Rat) (n : Nat) (s : State) (h : s.fault.isSome = true) : runSlots q n s = .next s := by
  cases n with
  | zero => rfl
  | succ n => simp [runSlots, h]

theorem runSlots_succ (q : Rat) (n : Nat) (s : State) (h : s.fault.isSome = false) :
    runSlots q (n + 1) s = andThen (slot q s) (runSlots q n) := by
  simp only [runSlots, h]
  cases slot q s <;> rfl

theorem stepBlockWith_eq_runSlots (p q r d : Rat) (s : State) :
    stepBlockWith p q r d s = runSlots (tdpiOf r d (s.slotCount p q d)) (s.slotCount p q d) (s.takeBudget p q d) := by
  simp only [stepBlockWith]
  split
  · next h => rw [h]; rfl
  · rfl

/-- `s` in a call with `n` slots of timer time `q` still to run, as the loop test of R157 leaves it: the call is over when no slot is
left or a fault is set. -/
def State.inCall (s : State) (n : Nat) (q : Rat) : State :=
  if n = 0 || s.fault.isSome then s else s.setCall (some ⟨n, q⟩)

theorem State.beginCallWith_eq_inCall (s : State) (p q r d : Rat) :
    s.beginCallWith p q r d = (s.takeBudget p q d).inCall (s.slotCount p q d) (tdpiOf r d (s.slotCount p q d)) := rfl

/-- The count at a slot's end is the loop test before the next one (R157). -/
theorem State.countSlot_eq_inCall (t : State) (n : Nat) (q : Rat) (hc : t.call = none) :
    (t.setCall (some ⟨n + 1, q⟩)).countSlot ⟨n + 1, q⟩ = t.inCall n q := by
  have closed : t.setCall none = t := by rw [← hc]; rfl
  have same_test : (t.fault.isSome || decide (n + 1 ≤ 1)) = (decide (n = 0) || t.fault.isSome) := by
    simp [Bool.or_comm]
  unfold State.countSlot State.inCall
  rw [State.setCall_fault, same_test]
  split
  · exact closed
  · rfl

/-- A step inside a call runs a slot and counts it (R157). -/
theorem step_inCall (s : State) (n : Nat) (q : Rat) (hc : s.call = none) (hf : s.fault.isSome = false) :
    step (s.inCall (n + 1) q) = andThen (slot q s) fun t => .next (t.inCall n q) := by
  have opened : s.inCall (n + 1) q = s.setCall (some ⟨n + 1, q⟩) := by simp [State.inCall, hf]
  have hstep : step (s.setCall (some ⟨n + 1, q⟩)) = callSlot ⟨n + 1, q⟩ (s.setCall (some ⟨n + 1, q⟩)) := by simp [step, hf]
  rw [opened, hstep, callSlot, slot_setCall]
  cases hslot : slot q s with
  | next t => exact congrArg _ (t.countSlot_eq_inCall n q ((slot_untouched q s t hslot).1.trans hc))
  | fault f => rfl
  | refused r => rfl

/-- The steps of a call with `n` slots left give what the slot loop gives, in at most `n` steps. -/
theorem runSteps_refine_runSlots (q : Rat) (n : Nat) (s : State) (hc : s.call = none) :
    ∃ k ≤ n, runSteps k (s.inCall n q) = runSlots q n s := by
  induction n generalizing s with
  | zero => exact ⟨0, le_rfl, rfl⟩
  | succ n ih =>
    cases hf : s.fault.isSome with
    | true => exact ⟨0, Nat.zero_le _, by rw [runSlots_of_fault q _ s hf]; simp [runSteps, State.inCall, hf]⟩
    | false =>
      have first_step := step_inCall s n q hc hf
      rw [runSlots_succ q n s hf]
      cases hslot : slot q s with
      | next t =>
        obtain ⟨k, hk, hrun⟩ := ih t ((slot_untouched q s t hslot).1.trans hc)
        refine ⟨k + 1, Nat.succ_le_succ hk, ?_⟩
        rw [runSteps, first_step, hslot]
        exact hrun
      | fault f => exact ⟨1, by omega, by rw [runSteps, first_step, hslot]; rfl⟩
      | refused r => exact ⟨1, by omega, by rw [runSteps, first_step, hslot]; rfl⟩

/-- Settles O13: the first step opens the call, and the steps of the call refine the block's slot loop (`runSteps_refine_runSlots`). -/
theorem stepsRefineTheBlock : Obligations.StepsRefineTheBlock := by
  unfold Obligations.StepsRefineTheBlock
  intro s hc
  have opening : step s = .next (s.beginCallWith Config.ips Config.speed Config.timerHz Config.delta) := by
    simp only [step, hc]; rfl
  rw [stepBlock, whenIdle_of_idle s _ hc, stepBlockWith_eq_runSlots]
  obtain ⟨k, hk, hrun⟩ := runSteps_refine_runSlots
    (tdpiOf Config.timerHz Config.delta (s.slotCount Config.ips Config.speed Config.delta))
    (s.slotCount Config.ips Config.speed Config.delta) (s.takeBudget Config.ips Config.speed Config.delta) hc
  refine ⟨k + 1, by rw [← State.slotCount_eq]; omega, ?_⟩
  rw [← hrun, runSteps, opening, andThen_next, State.beginCallWith_eq_inCall]

end Sys2Proof.Machine
end

section
/-! The Scheduler's operations keep its invariant (40_scheduler R133, 10_state R35 to R40). -/

namespace Sys2Proof.Machine.Scheduler

theorem Inv.params_legal {c : Scheduler} (h : c.Inv) :
    1 ≤ c.tickPerStep ∧ 1 ≤ c.stepMultiplicity ∧ c.stepMultiplicity < c.stepMaximum := by
  simpa [schedulerParamsWellFormed, and_assoc] using h.params

theorem Inv.resync {c : Scheduler} (h : c.Inv) : c.resync.Inv := by
  obtain ⟨htick, hmult, hmax⟩ := h.params_legal
  refine { h with
    lastTime := Nat.two_pow_pos _
    residual := Nat.zero_le _
    accumulator := Nat.mul_pos htick hmult
    history := fun k => .inl ?_ }
  simpa [Scheduler.resync] using Nat.le_mul_of_pos_right c.tickPerStep (show 0 < c.stepMaximum by omega)

/-- Snapping answers the raw delta or a registered period (R126). -/
theorem snapped_mem (c : Scheduler) (tol : NNRat) (raw : Nat) : c.snapped tol raw = raw ∨ c.snapped tol raw ∈ c.snapTable := by
  unfold snapped
  cases h : c.snapTable.find? (c.accepts tol raw) with
  | none => exact .inl rfl
  | some p => exact .inr (List.mem_of_find?_eq_some h)

/-- The delta that `advance` records obeys the bound of a history entry (R125, R126, R133). -/
theorem snapped_rawDelta_bound (c : Scheduler) (tol : NNRat) (sample : Nat) :
    c.snapped tol (c.rawDelta sample) ≤ c.tickPerStep * c.stepMaximum ∨
      ∃ p ∈ c.snapTable, c.snapped tol (c.rawDelta sample) ≤ p := by
  rcases c.snapped_mem tol (c.rawDelta sample) with h | h
  · rw [h]
    exact .inl (Nat.min_le_right _ _)
  · exact .inr ⟨_, h, le_rfl⟩

/-- The adjusted sample is a tick value of `tw` bits, since the sample, one unit and the old `last_time` are (R123, R124, R138). -/
theorem sampleTime_lt {c : Scheduler} {tw sample : Nat} (hlast : c.lastTime < 2 ^ tw) (hw : c.WidthPremises tw sample) :
    c.sampleTime sample < 2 ^ tw := by
  have hsample := hw.sample
  have htotal := hw.total
  unfold sampleTime unit
  split <;> omega

theorem Inv.advanceWith {c : Scheduler} (h : c.Inv) (tol : NNRat) (sample : Nat)
    (hw : c.WidthPremises Config.tickWidth sample) : (c.advanceWith tol sample).2.Inv := by
  obtain ⟨htick, hmult, -⟩ := h.params_legal
  rcases c.commit_cases sample (c.pushed (c.snapped tol (c.rawDelta sample))) with ⟨-, e⟩ | ⟨-, e⟩
  · rw [Scheduler.advanceWith, e]
    exact h.resync
  · rw [Scheduler.advanceWith, e]
    refine { h with
      lastTime := sampleTime_lt h.lastTime hw
      residual := Nat.le_of_lt_succ (Nat.mod_lt _ (by decide))
      accumulator := c.sub_wholeSteps_lt _ htick hmult
      history := fun k => ?_ }
    rw [pushed_get]
    split
    · exact c.snapped_rawDelta_bound tol sample
    · exact h.history k

theorem Inv.advance {c : Scheduler} (h : c.Inv) {sample : Nat} {r : Nat × Scheduler} (hr : c.advance sample = .next r) : r.2.Inv := by
  rcases c.advance_cases sample with ⟨hw, e⟩ | ⟨-, e⟩
  · cases e.symm.trans hr
    exact h.advanceWith _ _ hw
  · cases e.symm.trans hr

theorem snapPeriod_pos {ticksPerSecond hz : Nat} (ht : 1 ≤ ticksPerSecond) (hz1 : 1 ≤ hz) : 1 ≤ snapPeriod ticksPerSecond hz :=
  (Nat.one_le_div_iff hz1).2 (by omega)

theorem Inv.registerSnap {c d : Scheduler} (h : c.Inv) {hz : Nat} (hd : c.registerSnap hz = .next d) : d.Inv := by
  rcases c.registerSnapWith_cases Config.ticksPerSecond Config.snapCap hz with ⟨hroom, hz1, e⟩ | ⟨-, e⟩ | ⟨-, -, e⟩
  · cases e.symm.trans hd
    refine { h with
      periods := fun p hp => ?_
      room := by simpa using hroom
      history := fun k => (h.history k).imp_right fun ⟨p, hp, hle⟩ => ⟨p, List.mem_append_left _ hp, hle⟩ }
    rcases List.mem_append.1 hp with hp | hp
    · exact h.periods p hp
    · rw [List.mem_singleton.1 hp]
      exact snapPeriod_pos Config.ticksPerSecond.pos hz1
  · cases e.symm.trans hd
  · cases e.symm.trans hd

end Sys2Proof.Machine.Scheduler
end

section
/-! The Sink's operations keep its size invariant (45_display R240 to R243). -/

namespace Sys2Proof.Machine.Sink

theorem setResolution_inv {k : Sink} (h : k.Inv) (draw w h' : Nat) : (k.setResolution draw w h').Inv := by
  unfold Sink.Inv at h ⊢
  by_cases hsize : 4 * w * h' = k.byteSize
  · simp only [setResolution, hsize, if_true, h]
    simp only [byteSize, Nat.mul_assoc] at hsize
    omega
  · simp [setResolution, hsize]

theorem Inv.putPixel {k : Sink} (h : k.Inv) (x y : Nat) (p : Pixel) : (k.putPixel x y p).Inv := by
  simpa [Sink.Inv] using h

theorem Inv.setPixel {k : Sink} (h : k.Inv) (x y : Int) (p : Pixel) : (k.setPixel x y p).Inv := by
  unfold Sink.setPixel
  split
  · exact h.putPixel _ _ p
  · exact h

theorem Inv.clear {k : Sink} (h : k.Inv) (p : Pixel) : (k.clear p).Inv := by
  simpa [Sink.Inv, Sink.clear] using h

theorem Inv.renderRow {k : Sink} (h : k.Inv) (scr : Vector Byte 256) (y : Nat) : (k.renderRow scr y).Inv :=
  List.foldlRecOn (motive := Sink.Inv) _ _ h fun _ hk _ _ => hk.putPixel _ _ _

theorem Inv.renderBitmap {k : Sink} (h : k.Inv) (scr : Vector Byte 256) : (k.renderBitmap scr).Inv :=
  List.foldlRecOn (motive := Sink.Inv) _ _ h fun _ hk y _ => hk.renderRow scr y

theorem Inv.render {k l : Sink} (h : k.Inv) {scr : Vector Byte 256} (hl : k.render scr = .next l) : l.Inv := by
  unfold Sink.render at hl
  split at hl
  · exact Host.Outcome.next.inj hl ▸ h.renderBitmap scr
  · cases hl

end Sys2Proof.Machine.Sink
end

section
/-! A slot and a whole `step` keep the block's invariant (10_state R25, R31, R34). -/

namespace Sys2Proof.Machine

/-- With no call in progress the clause about an open call says nothing. -/
theorem State.forall_call_of_idle {s : State} {P : StepCall → Prop} (hc : s.call = none) : ∀ c, s.call = some c → P c := by
  simp [hc]

/-! Memory below 512 (R34, R68). -/

/-- A store inside the program region keeps the canonical form and every byte below 512. -/
theorem Memory.writeBytes_keeps_low (m : Memory) (a : Nat) (bs : List Byte) (hlo : 512 ≤ a) (hhi : a + bs.length ≤ 4096)
    (hwf : m.wf = true) (hlow : ∀ b < 512, m.readByte b = Memory.unlisted b) :
    (m.writeBytes a bs).wf = true ∧ ∀ b < 512, (m.writeBytes a bs).readByte b = Memory.unlisted b := by
  refine ⟨Memory.writeBytes_wf bs m a hhi hwf, fun b hb => ?_⟩
  rw [Memory.readByte_writeBytes, dif_neg (by omega)]
  exact hlow b hb

theorem romMemory_low (rom : List Byte) (h : rom.length ≤ 3584) :
    (romMemory rom).wf = true ∧ ∀ b < 512, (romMemory rom).readByte b = Memory.unlisted b :=
  Memory.writeBytes_keeps_low [] 512 rom le_rfl (by omega) Memory.wf_nil fun _ _ => rfl

/-! The parts of a slot. -/

theorem State.Inv.timerTick {s : State} (h : s.Inv) {q : Rat} (hq : 0 ≤ q) : (s.timerTick q).Inv :=
  { h with
    timerAcc := ⟨fracPart_nonneg _ (by rw [exactSum_eq]; exact add_nonneg h.timerAcc.1 hq), fracPart_lt_one _⟩ }

theorem State.Inv.raise {s : State} (h : s.Inv) (hc : s.call = none) {f : Fault} (hf : f ≠ .registerOutOfBounds) :
    (s.raise f).Inv :=
  { h with
    call := State.forall_call_of_idle hc
    noRegisterFault := by simpa using hf }

/-- Where an instruction at a legal address leaves `PC`, `PC` being two on when it runs: at most 0xFFF + 0xFF = 0x10FE (R25, R174). -/
theorem exec_pcBound {i : Instr} {s t : State} (h : exec i s = .next t) (hlo : 2 ≤ s.pc.toNat) (hhi : s.pc.toNat ≤ 4096)
    (hstack : ∀ k : Fin 16, s.stack[k].toNat ≤ 4096) : t.pc.toNat ≤ 0x10FE := by
  have haddr (nnn : BitVec 12) : (addrWord nnn).toNat = nnn.toNat := by rw [addrWord, BitVec.toNat_setWidth]; omega
  rcases exec_pc i s t h with e | e | e | ⟨nnn, e⟩ | ⟨nnn, b, e⟩ | ⟨k, e⟩ <;> rw [e]
  · omega
  · bv_omega
  · bv_omega
  · rw [haddr]; omega
  · rw [BitVec.toNat_add, haddr, byteWord, BitVec.toNat_setWidth]; omega
  · have := hstack k
    omega

/-- An instruction at a legal address keeps the invariant (R34). -/
theorem State.Inv.exec {i : Instr} {s t : State} (h : s.Inv) (hc : s.call = none) (hlo : 2 ≤ s.pc.toNat) (hhi : s.pc.toNat ≤ 4096)
    (ht : exec i s = .next t) : t.Inv := by
  obtain ⟨-, -, hcall, hacc, htimer, hsched, hsink⟩ := exec_untouched i s t ht
  have hmem : t.mem.wf = true ∧ ∀ b < 512, t.mem.readByte b = Memory.unlisted b := by
    rcases exec_mem i s t ht with e | ⟨a, bs, ha, hb, e⟩ <;> rw [e]
    · exact ⟨h.memWf, h.lowMem⟩
    · exact Memory.writeBytes_keeps_low s.mem a bs ha hb h.memWf h.lowMem
  have hstack : ∀ k : Fin 16, t.stack[k].toNat ≤ 4096 := by
    rcases exec_stack i s t ht with e | ⟨hsp, e⟩ <;> intro k <;> rw [e]
    · exact h.stackBound k
    · rw [Fin.getElem_fin, Vector.getElem_set]
      split
      · exact hhi
      · exact h.stackBound k
  have hfault : t.fault ≠ some .registerOutOfBounds := by
    rcases exec_fault i s t ht with e | e | e | e | e | e <;> rw [e]
    · exact h.noRegisterFault
    all_goals decide
  exact
    { memWf := hmem.1
      lowMem := hmem.2
      pcBound := exec_pcBound ht hlo hhi h.stackBound
      stackBound := hstack
      instrAcc := hacc ▸ h.instrAcc
      timerAcc := htimer ▸ h.timerAcc
      call := State.forall_call_of_idle (hcall.trans hc)
      noRegisterFault := hfault
      sched := hsched ▸ h.sched
      sink := hsink ▸ h.sink }

theorem State.Inv.finishSlot {t : State} (h : t.Inv) : (finishSlot t).Inv := by
  rw [finishSlot_frame]
  exact { h with }

/-- A slot of non-negative timer time keeps the invariant; the call stands outside of it (`slot_setCall`). -/
theorem State.Inv.slot {s t : State} (h : s.Inv) (hc : s.call = none) {q : Rat} (hq : 0 ≤ q) (ht : slot q s = .next t) : t.Inv := by
  have htick := h.timerTick hq
  have hfetched : fetchLegal s.pc.toNat = true →
      2 ≤ (s.timerTick q).advancePc.pc.toNat ∧ (s.timerTick q).advancePc.pc.toNat ≤ 4096 := by
    intro hf
    rw [fetchLegal_iff] at hf
    simp only [State.advancePc_pc, State.timerTick_pc, BitVec.toNat_add, BitVec.toNat_ofNat]
    omega
  have hadvanced (hf : fetchLegal s.pc.toNat = true) : (s.timerTick q).advancePc.Inv :=
    { htick with pcBound := (hfetched hf).2.trans (by decide) }
  rcases slot_cases q s t ht with ⟨-, rfl⟩ | ⟨hf, -, rfl⟩ | ⟨hf, i, u, -, hu, rfl⟩
  · exact htick.raise hc (by decide)
  · exact (hadvanced hf).raise hc (by decide)
  · exact ((hadvanced hf).exec hc (hfetched hf).1 (hfetched hf).2 hu).finishSlot

theorem State.Inv.runSlots {q : Rat} (hq : 0 ≤ q) (n : Nat) {s t : State} (h : s.Inv) (hc : s.call = none)
    (ht : runSlots q n s = .next t) : t.Inv := by
  induction n generalizing s with
  | zero => cases ht; exact h
  | succ n ih =>
    cases hf : s.fault.isSome with
    | true =>
      rw [runSlots_of_fault q _ s hf] at ht
      cases ht; exact h
    | false =>
      rw [runSlots_succ q n s hf] at ht
      obtain ⟨u, hu, ht⟩ := andThen_eq_next.1 ht
      exact ih (h.slot hc hq hu) ((slot_untouched q s u hu).1.trans hc) ht

theorem State.Inv.takeBudget {s : State} (h : s.Inv) {p q d : Rat} (hb : 0 ≤ p * d * q) : (s.takeBudget p q d).Inv :=
  { h with instrAcc := ⟨fracPart_nonneg _ (add_nonneg h.instrAcc.1 hb), fracPart_lt_one _⟩ }

theorem State.Inv.stepBlock {s t : State} (h : s.Inv) {delta : NNRat} (ht : stepBlock delta s = .next t) : t.Inv := by
  obtain ⟨hc, ht⟩ := whenIdle_eq_next.1 ht
  rw [stepBlockWith_eq_runSlots] at ht
  have hbudget : (0 : Rat) ≤ Config.ips * delta * Config.speed := by positivity
  have htdpi : 0 ≤ tdpiOf Config.timerHz delta (s.slotCount Config.ips Config.speed delta) := by
    unfold tdpiOf; positivity
  exact State.Inv.runSlots htdpi _ (h.takeBudget hbudget) hc ht

end Sys2Proof.Machine
end

section
/-! The driver's operations keep the block's invariant (00_scope R7). -/

namespace Sys2Proof.Machine

theorem State.Inv.setSched {s : State} (h : s.Inv) {c : Scheduler} (hc : c.Inv) : (s.setSched c).Inv := { h with sched := hc }

theorem State.Inv.setSink {s : State} (h : s.Inv) {k : Sink} (hk : k.Inv) : (s.setSink k).Inv := { h with sink := hk }

theorem State.Inv.setKeys {s : State} (h : s.Inv) (k : Vector Bool 16) : (s.setKeys k).Inv := { h with }

theorem State.Inv.countDraw {s : State} (h : s.Inv) : s.countDraw.Inv := { h with }

theorem State.Inv.created {s : State} (h : s.Inv) {rom : List Byte} (hrom : rom.length ≤ 3584) : (s.created rom).Inv :=
  { memWf := (romMemory_low rom hrom).1
    lowMem := (romMemory_low rom hrom).2
    pcBound := show (512 : Word).toNat ≤ 0x10FE by decide
    stackBound := fun k => by simp [State.created, State.reset]
    instrAcc := ⟨le_rfl, zero_lt_one⟩
    timerAcc := ⟨le_rfl, zero_lt_one⟩
    call := State.forall_call_of_idle rfl
    noRegisterFault := nofun
    sched := h.sched
    sink := h.sink }

/-- Settles O17: `step` by induction on the slots, `create` by its reset values, every other operation because it writes one unit and
keeps that unit's own invariant. -/
theorem driverOperationsKeepInvariant : Obligations.DriverOperationsKeepInvariant := by
  unfold Obligations.DriverOperationsKeepInvariant
  intro op s t h ht
  cases op with
  | step delta => exact h.stepBlock ht
  | create rom =>
    obtain ⟨-, ht⟩ := whenIdle_eq_next.1 ht
    split at ht <;> cases ht
    next hrom => exact h.created (of_decide_eq_true hrom)
  | setKeys k =>
    obtain ⟨-, ht⟩ := whenIdle_eq_next.1 ht
    cases ht
    exact h.setKeys k
  | registerSnapFrequency hz =>
    obtain ⟨-, ht⟩ := whenIdle_eq_next.1 ht
    obtain ⟨c, hc, ht⟩ := andThen_eq_next.1 ht
    cases ht
    exact h.setSched (h.sched.registerSnap hc)
  | advance sample =>
    obtain ⟨r, hr, ht⟩ := andThen_eq_next.1 ht
    obtain ⟨-, hr⟩ := whenIdle_eq_next.1 hr
    obtain ⟨c, hc, hr⟩ := andThen_eq_next.1 hr
    cases hr; cases ht
    exact h.setSched (h.sched.advance hc)
  | resync =>
    obtain ⟨-, ht⟩ := whenIdle_eq_next.1 ht
    cases ht
    exact h.setSched h.sched.resync
  | setResolution w h' =>
    obtain ⟨-, ht⟩ := whenIdle_eq_next.1 ht
    cases ht
    exact h.countDraw.setSink (Sink.setResolution_inv h.sink _ w h')
  | setPixel x y colour =>
    obtain ⟨-, ht⟩ := whenIdle_eq_next.1 ht
    cases ht
    exact h.setSink (h.sink.setPixel x y colour)
  | clear colour =>
    obtain ⟨-, ht⟩ := whenIdle_eq_next.1 ht
    cases ht
    exact h.setSink (h.sink.clear colour)
  | render =>
    obtain ⟨-, ht⟩ := whenIdle_eq_next.1 ht
    obtain ⟨k, hk, ht⟩ := andThen_eq_next.1 ht
    cases ht
    exact h.setSink (h.sink.render hk)

end Sys2Proof.Machine
end

section
/-! The three units at creation meet their invariants (10_state R33, R41, R43). -/

namespace Sys2Proof.Machine

/-- The Scheduler at creation meets its invariant for all legal parameters (R41, R121). -/
theorem Scheduler.created_inv {tickPerStep stepMultiplicity stepMaximum : Nat}
    (h : schedulerParamsWellFormed tickPerStep stepMultiplicity stepMaximum = true) :
    (Scheduler.created tickPerStep stepMultiplicity stepMaximum).Inv := by
  have hlegal : (1 ≤ tickPerStep ∧ 1 ≤ stepMultiplicity) ∧ stepMultiplicity < stepMaximum := by
    simpa [schedulerParamsWellFormed] using h
  obtain ⟨⟨htick, hmult⟩, hmax⟩ := hlegal
  refine
    { params := h
      lastTime := Nat.two_pow_pos _
      residual := Nat.zero_le _
      accumulator := Nat.mul_pos htick hmult
      periods := nofun
      room := Nat.zero_le _
      history := fun k => .inl ?_ }
  simpa [Scheduler.created] using Nat.le_mul_of_pos_right tickPerStep (show 0 < stepMaximum by omega)

/-- The installation's parameters obey their constraints (R10, R36). -/
theorem config_params_wellFormed : schedulerParamsWellFormed Config.tickPerStep Config.stepMult Config.stepMax = true := by
  simp [schedulerParamsWellFormed, Config.stepMax, Nat.one_le_iff_ne_zero]

theorem Sink.created_inv : Sink.created.Inv := rfl

/-- Settles O18: memory reads as unlisted everywhere, the registers are bounded, and the other two units are at creation. -/
theorem resetMeetsInvariant : Obligations.ResetMeetsInvariant :=
  { memWf := Memory.wf_nil
    lowMem := fun a _ => Memory.readByte_nil a
    pcBound := show (512 : Word).toNat ≤ 0x10FE by decide
    stackBound := fun k => by simp [State.reset]
    instrAcc := ⟨le_rfl, zero_lt_one⟩
    timerAcc := ⟨le_rfl, zero_lt_one⟩
    call := State.forall_call_of_idle rfl
    noRegisterFault := nofun
    sched := Scheduler.created_inv config_params_wellFormed
    sink := Sink.created_inv }

end Sys2Proof.Machine
end

section
/-! A step keeps the block's invariant: the opening of a call, and a slot of the call in progress (10_state R25, R31, R34). -/

namespace Sys2Proof.Machine

theorem State.Inv.setCall {s : State} (h : s.Inv) {c : Option StepCall}
    (hc : ∀ d, c = some d → 1 ≤ d.slotsLeft ∧ 0 ≤ d.tdpi ∧ s.fault = none) : (s.setCall c).Inv :=
  { h with call := hc }

theorem State.Inv.closeCall {s : State} (h : s.Inv) : (s.setCall none).Inv := h.setCall nofun

/-- The loop test of R157 leaves only legal calls open. -/
theorem State.Inv.inCall {s : State} (h : s.Inv) (n : Nat) {q : Rat} (hq : 0 ≤ q) : (s.inCall n q).Inv := by
  unfold State.inCall
  split
  · exact h
  · next hopen =>
    have hopen : n ≠ 0 ∧ s.fault = none := by simpa using hopen
    refine h.setCall fun d hd => ?_
    cases hd
    exact ⟨Nat.pos_of_ne_zero hopen.1, hq, hopen.2⟩

theorem tdpiOf_nonneg (timerHz delta : NNRat) (count : Nat) : 0 ≤ tdpiOf timerHz delta count := by
  unfold tdpiOf; positivity

/-- The opening of the driver's next call keeps the invariant (R154, R155, R157). -/
theorem State.Inv.beginCall {s : State} (h : s.Inv) : s.beginCall.Inv := by
  have hbudget : (0 : Rat) ≤ Config.ips * Config.delta * Config.speed := by positivity
  rw [State.beginCall, State.beginCallWith_eq_inCall]
  exact (h.takeBudget hbudget).inCall _ (tdpiOf_nonneg _ _ _)

/-- The count at the end of a slot is the loop test with one slot less. -/
theorem State.countSlot_eq_inCall_pred (u : State) (c : StepCall) :
    u.countSlot c = (u.setCall none).inCall (c.slotsLeft - 1) c.tdpi := by
  have same_test : (u.fault.isSome || decide (c.slotsLeft ≤ 1)) = (decide (c.slotsLeft - 1 = 0) || u.fault.isSome) := by
    simp [Nat.sub_eq_zero_iff_le, Bool.or_comm]
  unfold State.countSlot State.inCall
  rw [State.setCall_fault, same_test]
  rfl

/-- A slot of a call in progress keeps the invariant: it runs as it would with no call (`slot_setCall`), and is then counted. -/
theorem State.Inv.countSlot_of_slot {s u : State} (h : s.Inv) {c : StepCall} (hc : s.call = some c)
    (hu : Machine.slot c.tdpi s = .next u) : (u.countSlot c).Inv := by
  obtain ⟨-, htdpi, -⟩ := h.call c hc
  have hidle : Machine.slot c.tdpi (s.setCall none) = .next (u.setCall none) := by
    rw [slot_setCall, hu, andThen_next]
  rw [State.countSlot_eq_inCall_pred]
  exact (h.closeCall.slot rfl htdpi hidle).inCall _ htdpi

/-- Settles O16, by what a step can do (`step_cases`): open a call, close the call of a faulted VM, or run and count a slot. -/
theorem stepKeepsInvariant : Obligations.StepKeepsInvariant := by
  unfold Obligations.StepKeepsInvariant
  intro s t h ht
  rcases step_cases s t ht with ⟨-, rfl⟩ | ⟨c, -, -, rfl⟩ | ⟨c, u, hc, -, hu, rfl⟩
  · exact h.beginCall
  · exact h.closeCall
  · exact h.countSlot_of_slot hc hu

end Sys2Proof.Machine
end

section
/-! What `create` leaves (10_state R33, 41_vm_step R150, R151). -/

namespace Sys2Proof.Machine

theorem Memory.unlisted_font {a : Nat} (h : a < 80) : Memory.unlisted a = Config.font a := if_pos h

theorem Memory.unlisted_zero {a : Nat} (h : 80 ≤ a) : Memory.unlisted a = 0 := if_neg (by omega)

/-- Outside the ROM's range `create` leaves what every address reads as unlisted. -/
theorem romMemory_outside {rom : List Byte} {a : Nat} (h : a < 512 ∨ 512 + rom.length ≤ a) :
    (romMemory rom).readByte a = Memory.unlisted a := by
  rw [romMemory, Memory.readByte_writeBytes, dif_neg (by omega), Memory.readByte_nil]

/-- The ROM stands from 512 up (R78). -/
theorem romMemory_rom {rom : List Byte} {k : Nat} (hk : k < rom.length) : (romMemory rom).readByte (512 + k) = rom[k] := by
  simp [romMemory, Memory.readByte_writeBytes, hk]

theorem create_of_fits {s : State} (hc : s.call = none) {rom : List Byte} (h : rom.length ≤ 3584) :
    create rom s = .next (s.created rom) := by
  simp [create, romWellFormed, hc, h]

theorem create_of_too_long {s : State} (hc : s.call = none) {rom : List Byte} (h : 3584 < rom.length) :
    create rom s = .refused .romTooLong := by
  simp [create, romWellFormed, hc, h]

theorem State.reg_created (s : State) (rom : List Byte) (r : RegNum) : (s.created rom).reg r = 0 := by
  simp [State.reg, State.created, State.reset]

/-- Settles O19: memory by what it reads outside and inside the ROM's range, every other field by `State.created`. -/
theorem createGivesResetValues : Obligations.CreateGivesResetValues := by
  unfold Obligations.CreateGivesResetValues
  refine fun s rom hc => ⟨fun hfits => ⟨s.created rom, create_of_fits hc hfits, ?font, ?reserved, fun k hk => romMemory_rom hk,
    ?rest, s.reg_created rom, rfl, rfl, rfl, fun k => Vector.getElem_replicate _, rfl, rfl, fun k => Vector.getElem_replicate _,
    fun k => ⟨Vector.getElem_replicate _, Vector.getElem_replicate _⟩, rfl, rfl, rfl, rfl, rfl, rfl⟩, ?tooLong⟩
  case font =>
    intro a ha
    exact (romMemory_outside (.inl (by omega))).trans (Memory.unlisted_font ha)
  case reserved =>
    intro a hlo hhi
    exact (romMemory_outside (.inl hhi)).trans (Memory.unlisted_zero hlo)
  case rest =>
    intro a ha
    exact (romMemory_outside (.inr ha)).trans (Memory.unlisted_zero (by omega))
  case tooLong =>
    intro hlong t
    simp [create_of_too_long hc hlong]

end Sys2Proof.Machine
end

section
/-! Decoding the word of an instruction gives the instruction back (30_encoding R94, R101). -/

namespace Sys2Proof

/-- Split by format (R91): each field of the assembled word is the operand it was assembled from. -/
@[simp] theorem decodeWord_encode (i : Instr) : decodeWord (encode i) = some i := by
  cases i with
  | cls | ret => rfl
  | jp nnn | call nnn | ldI nnn | jpV0 nnn
  | seImm x kk | sneImm x kk | ldImm x kk | addImm x kk | rnd x kk
  | seReg x y | sneReg x y | drw x y n => simp [encode, decodeWord]
  | ldReg x y | orReg x y | andReg x y | xorReg x y | addReg x y | subReg x y | shr x y | subn x y | shl x y =>
    simp [encode, decodeWord, decodeOp8]
  | skp x | sknp x => simp [encode, decodeWord, decodeOpE]
  | ldVxDt x | ldVxK x | ldDtVx x | ldStVx x | addI x | ldF x | ldB x | storeRegs x | loadRegs x =>
    simp [encode, decodeWord, decodeOpF]

/-- The opcode table numbers a 16-bit word by its own value. -/
@[simp] theorem tableWord_toNat (w : Word) : tableWord 16 w.toNat = w := by
  rw [tableWord, Nat.mod_eq_of_lt w.isLt, BitVec.ofNat_toNat, BitVec.setWidth_eq]

@[simp] theorem decodeTableWord_encode (i : Instr) : decodeTableWord 16 (encode i).toNat = some i := by
  simp [decodeTableWord, decode]

end Sys2Proof
end

section
/-! Stored bytes are fetched as an instruction word (20_memory R62, R76). -/

namespace Sys2Proof.Machine

/-- The word at two neighbouring bytes of a store: the byte at the lower address is the high one (R62). -/
theorem Memory.readWord_writeBytes (m : Memory) (a : Nat) (bs : List Byte) (j : Nat) (hj : j + 1 < bs.length) :
    (m.writeBytes a bs).readWord (a + j) = wordOfBytes bs[j] bs[j + 1] := by
  have hlow : (m.writeBytes a bs).readByte (a + j + 1) = bs[j + 1] := by
    rw [Memory.readByte_writeBytes, dif_pos (by omega)]
    congr 1; omega
  have hhigh : (m.writeBytes a bs).readByte (a + j) = bs[j] := by
    rw [Memory.readByte_writeBytes, dif_pos (by omega)]
    congr 1; omega
  rw [Memory.readWord, hhigh, hlow]

/-- The two bytes of a placed word lie in the program region (log 24). -/
theorem State.placeAddr_bounds (s : State) : 512 ≤ s.placeAddr.toNat ∧ s.placeAddr.toNat < 4095 := by
  unfold State.placeAddr
  split
  · next h =>
    simp only [Bool.and_eq_true, inProgramRegion_iff] at h
    omega
  · decide

@[simp] theorem State.fetchWord_placeWord (s : State) (w : Word) : (s.placeWord w).fetchWord = w :=
  (Memory.readWord_writeBytes s.mem s.placeAddr.toNat [highByte w, lowByte w] 0 (by simp)).trans (wordOfBytes_bytes w)

/-- Settles O4: the word is decoded by its format, and fetched from the place in the program region it was stored at. -/
theorem placedWordIsFetched : Obligations.PlacedWordIsFetched := by
  unfold Obligations.PlacedWordIsFetched
  intro s i
  have hplaced : s.withFetchWord 16 (encode i).toNat = s.placeWord (encode i) := congrArg s.placeWord (tableWord_toNat _)
  rw [hplaced]
  exact ⟨decodeTableWord_encode i, (fetchLegal_iff _).mpr (.inr s.placeAddr_bounds), s.fetchWord_placeWord _, rfl, rfl⟩

/-- A register store that leaves no fault has written its whole range below 4096 (R215, D18). -/
theorem exec_storeRegs_of_no_fault {s t : State} {x : RegNum} (h : exec (.storeRegs x) s = .next t) (hf : t.fault = none) :
    s.i.toNat + rangeCount x ≤ 4096 ∧ t.mem = s.mem.writeBytes s.i.toNat (s.regRange x) := by
  obtain rfl : storeAtI (s.regRange x) s = t := Host.Outcome.next.inj h
  rcases storeAtI_cases (s.regRange x) s with ⟨hw, e⟩ | ⟨-, e⟩ <;> rw [e] at hf ⊢
  · rw [writeLegal_iff, State.length_regRange] at hw
    refine ⟨?_, rfl⟩
    unfold rangeCount at hw ⊢
    omega
  · cases hf

/-- Two neighbouring registers of a stored range stand in memory as a word (R62, R215). -/
theorem readWord_writeBytes_regRange (m : Memory) (a : Nat) (s : State) {x j : RegNum} (hj : j < x) :
    (m.writeBytes a (s.regRange x)).readWord (a + j.toNat) = wordOfBytes (s.reg j) (s.reg (j + 1)) := by
  have hlt : j.toNat < x.toNat := hj
  have hnext : BitVec.ofNat 4 (j.toNat + 1) = j + 1 := by bv_omega
  rw [Memory.readWord_writeBytes _ _ _ _ (by rw [State.length_regRange, rangeCount]; omega),
    State.getElem_regRange, State.getElem_regRange, hnext, BitVec.ofNat_toNat, BitVec.setWidth_eq]

/-- Settles O40: the store stayed below 4096, so the address of the fetch does not wrap and names two stored bytes. -/
theorem storeIsFetchedBack : Obligations.StoreIsFetchedBack := by
  unfold Obligations.StoreIsFetchedBack
  intro s t x j h hf hj
  obtain ⟨hbound, hmem⟩ := exec_storeRegs_of_no_fault h hf
  have haddr : (s.i + j.setWidth 16).toNat = s.i.toNat + j.toNat := by
    have hlt : j.toNat < x.toNat := hj
    rw [rangeCount] at hbound
    rw [BitVec.toNat_add, BitVec.toNat_setWidth]
    omega
  calc
    t.mem.readWord (s.i + j.setWidth 16).toNat
    _ = (s.mem.writeBytes s.i.toNat (s.regRange x)).readWord (s.i.toNat + j.toNat) := by rw [hmem, haddr]
    _ = wordOfBytes (s.reg j) (s.reg (j + 1)) := readWord_writeBytes_regRange s.mem s.i.toNat s hj

end Sys2Proof.Machine
end

section
/-! A word is assembled from its opcode and its own operand fields (30_encoding R91, R92). -/

namespace Sys2Proof

variable {w : Word} {op x y n : BitVec 4} {kk : Byte}

theorem encNNN_of_fieldOp (hop : fieldOp w = op) : encNNN op (fieldNNN w) = w := hop ▸ encNNN_fields w

theorem encXKK_of_fieldOp (hop : fieldOp w = op) : encXKK op (fieldX w) (fieldKK w) = w := hop ▸ encXKK_fields w

theorem encXYN_of_fieldOp (hop : fieldOp w = op) : encXYN op (fieldX w) (fieldY w) (fieldN w) = w := hop ▸ encXYN_fields w

/-! A word whose masked bits are a row's pattern has that pattern's opcodes (R94), and so is assembled from them. -/

theorem fieldOp_of_and_F000 (h : w &&& 0xF000#16 = encNNN op 0#12) : fieldOp w = op := by
  rw [and_F000] at h
  simpa using congrArg fieldOp h

theorem encXYN_of_and_F00F (h : w &&& 0xF00F#16 = encXYN op 0#4 0#4 n) : encXYN op (fieldX w) (fieldY w) n = w := by
  rw [and_F00F] at h
  obtain rfl : fieldOp w = op := by simpa using congrArg fieldOp h
  obtain rfl : fieldN w = n := by simpa using congrArg fieldN h
  exact encXYN_fields w

theorem encXKK_of_and_F0FF (h : w &&& 0xF0FF#16 = encXKK op 0#4 kk) : encXKK op (fieldX w) kk = w := by
  rw [and_F0FF] at h
  obtain rfl : fieldOp w = op := by simpa using congrArg fieldOp h
  obtain rfl : fieldKK w = kk := by simpa using congrArg fieldKK h
  exact encXKK_fields w

theorem eq_of_and_FFFF {p : Word} (h : w &&& 0xFFFF#16 = p) : p = w := by
  rw [← h]
  exact BitVec.and_allOnes

end Sys2Proof
end

section
/-! Encoding undoes decoding (30_encoding R94, R95): the decoder reads every bit of a word it accepts. -/

namespace Sys2Proof

theorem encode_of_decodeOp0 {w : Word} {i : Instr} (h : decodeOp0 w = some i) : encode i = w := by
  unfold decodeOp0 at h
  split at h
  · next hw => cases h; exact hw.symm
  · split at h <;> cases h
    next hw => exact hw.symm

/-- Each minor opcode of `8xy-` is the low nibble of its instruction's word (R97). -/
theorem encode_of_decodeOp8 {x y n : BitVec 4} {i : Instr} (h : decodeOp8 x y n = some i) : encode i = encXYN 0x8#4 x y n := by
  unfold decodeOp8 at h
  split at h <;> cases h <;> next hn => exact congrArg (encXYN 0x8#4 x y) (BitVec.eq_of_toNat_eq hn.symm)

theorem encode_of_decodeOpE {x : RegNum} {kk : Byte} {i : Instr} (h : decodeOpE x kk = some i) : encode i = encXKK 0xE#4 x kk := by
  unfold decodeOpE at h
  split at h
  · next hkk => cases h; rw [hkk]; rfl
  · split at h <;> cases h
    next hkk => rw [hkk]; rfl

/-- Each minor opcode of `Fx--` is the low byte of its instruction's word (R96). -/
theorem encode_of_decodeOpF {x : RegNum} {kk : Byte} {i : Instr} (h : decodeOpF x kk = some i) : encode i = encXKK 0xF#4 x kk := by
  unfold decodeOpF at h
  repeat' split at h
  all_goals cases h
  all_goals next hkk => rw [hkk]; rfl

/-- By the major opcode, in the decoder's order (`h_1` is 0, `h_16` is F): the fields it reads reassemble the word. -/
theorem encode_of_decodeWord {w : Word} {i : Instr} (h : decodeWord w = some i) : encode i = w := by
  unfold decodeWord at h
  split at h
  case h_1 => exact encode_of_decodeOp0 h
  case h_6 hop | h_10 hop =>
    split at h <;> cases h
    next hn => exact (congrArg (encXYN _ _ _) hn.symm).trans (encXYN_of_fieldOp (BitVec.eq_of_toNat_eq hop))
  case h_9 hop => exact (encode_of_decodeOp8 h).trans (encXYN_of_fieldOp (BitVec.eq_of_toNat_eq hop))
  case h_15 hop => exact (encode_of_decodeOpE h).trans (encXKK_of_fieldOp (BitVec.eq_of_toNat_eq hop))
  case h_16 =>
    have hlt := (fieldOp w).isLt
    have hop : (fieldOp w).toNat = 0xF := by
      simp only [imp_false] at *
      omega
    exact (encode_of_decodeOpF h).trans (encXKK_of_fieldOp (BitVec.eq_of_toNat_eq hop))
  case h_2 hop | h_3 hop | h_11 hop | h_12 hop => cases h; exact encNNN_of_fieldOp (BitVec.eq_of_toNat_eq hop)
  case h_4 hop | h_5 hop | h_7 hop | h_8 hop | h_13 hop => cases h; exact encXKK_of_fieldOp (BitVec.eq_of_toNat_eq hop)
  case h_14 hop => cases h; exact encXYN_of_fieldOp (BitVec.eq_of_toNat_eq hop)

/-- The words the decoder accepts are the encodings, each of its own instruction. -/
theorem decodeWord_eq_some_iff {w : Word} {i : Instr} : decodeWord w = some i ↔ encode i = w :=
  ⟨encode_of_decodeWord, fun h => h ▸ decodeWord_encode i⟩

@[simp] theorem decode_encodeBytes_append (i : Instr) (rest : List Byte) : decode (encodeBytes i ++ rest) = .ok (i, rest) := by
  simp [encodeBytes, decode]

/-- Settles O1: the decoder reads the operands back from an assembled word, and the fields it reads reassemble the word. -/
theorem decodeAndEncodeAgree : Obligations.DecodeAndEncodeAgree :=
  ⟨fun i rest _ => decode_encodeBytes_append i rest, fun _ _ => encode_of_decodeWord⟩

/-- Settles O3: six of the seven are the bytes of their instruction; the low byte of `E19F` is no minor opcode of `Ex--`. -/
theorem workedEncodingsDecode : Obligations.WorkedEncodingsDecode :=
  ⟨decode_encodeBytes_append (.ldImm 3 0x42) [], decode_encodeBytes_append (.drw 1 2 5) [],
    decode_encodeBytes_append (.call 0x20A) [], decode_encodeBytes_append (.storeRegs 2) [],
    decode_encodeBytes_append (.shl 1 2) [], decode_encodeBytes_append (.addReg 0xA 0xB) [], rfl⟩

end Sys2Proof
end

section
/-! The words of the opcode table's rows are the encodings of the instructions (30_encoding R94, R96). -/

namespace Sys2Proof

open Laws.EncodedInItsRow in
/-- The row of each instruction, from the per-instruction laws. -/
theorem encode_in_row : ∀ i, Statement i
  | .cls => cls | .ret => ret | .jp nnn => jp nnn | .call nnn => call nnn
  | .seImm x kk => seImm x kk | .sneImm x kk => sneImm x kk | .seReg x y => seReg x y
  | .ldImm x kk => ldImm x kk | .addImm x kk => addImm x kk | .ldReg x y => ldReg x y
  | .orReg x y => orReg x y | .andReg x y => andReg x y | .xorReg x y => xorReg x y
  | .addReg x y => addReg x y | .subReg x y => subReg x y | .shr x y => shr x y
  | .subn x y => subn x y | .shl x y => shl x y | .sneReg x y => sneReg x y
  | .ldI nnn => ldI nnn | .jpV0 nnn => jpV0 nnn | .rnd x kk => rnd x kk | .drw x y n => drw x y n
  | .skp x => skp x | .sknp x => sknp x
  | .ldVxDt x => ldVxDt x | .ldVxK x => ldVxK x | .ldDtVx x => ldDtVx x | .ldStVx x => ldStVx x
  | .addI x => addI x | .ldF x => ldF x | .ldB x => ldB x | .storeRegs x => storeRegs x | .loadRegs x => loadRegs x

/-- Every word the row selects is the word of an instruction. -/
def OpcodeRow.Encoded (row : OpcodeRow) : Prop := ∀ w : Word, w &&& row.mask = row.pattern → ∃ i, encode i = w

/-! The same by mask: the operands are read off the selected word, and the rest of it is the pattern. -/

theorem OpcodeRow.encoded_of_mask_FFFF {m : String} (i : Instr) : OpcodeRow.Encoded ⟨m, encode i, 0xFFFF⟩ :=
  fun _ h => ⟨i, eq_of_and_FFFF h⟩

theorem OpcodeRow.encoded_of_mask_F000 {m : String} {op : BitVec 4} (read : Word → Instr)
    (hread : ∀ w, fieldOp w = op → encode (read w) = w) : OpcodeRow.Encoded ⟨m, encNNN op 0, 0xF000⟩ :=
  fun w h => ⟨read w, hread w (fieldOp_of_and_F000 h)⟩

theorem OpcodeRow.encoded_of_mask_F00F {m : String} {op n : BitVec 4} (f : RegNum → RegNum → Instr)
    (hf : ∀ x y, encode (f x y) = encXYN op x y n) : OpcodeRow.Encoded ⟨m, encXYN op 0 0 n, 0xF00F⟩ :=
  fun w h => ⟨f (fieldX w) (fieldY w), (hf _ _).trans (encXYN_of_and_F00F h)⟩

theorem OpcodeRow.encoded_of_mask_F0FF {m : String} {op : BitVec 4} {kk : Byte} (f : RegNum → Instr)
    (hf : ∀ x, encode (f x) = encXKK op x kk) : OpcodeRow.Encoded ⟨m, encXKK op 0 kk, 0xF0FF⟩ :=
  fun w h => ⟨f (fieldX w), (hf _).trans (encXKK_of_and_F0FF h)⟩

/-! The 34 rows of R96, by the model's four lists. -/

section Rows

open OpcodeRow

theorem opcodeRowsFlow_encoded : ∀ row ∈ opcodeRowsFlow, row.Encoded := by
  simp only [opcodeRowsFlow, List.forall_mem_cons]
  exact ⟨
    encoded_of_mask_FFFF .cls,
    encoded_of_mask_FFFF .ret,
    encoded_of_mask_F000 (fun w => .jp (fieldNNN w)) fun _ => encNNN_of_fieldOp,
    encoded_of_mask_F000 (fun w => .call (fieldNNN w)) fun _ => encNNN_of_fieldOp,
    encoded_of_mask_F000 (fun w => .seImm (fieldX w) (fieldKK w)) fun _ => encXKK_of_fieldOp,
    encoded_of_mask_F000 (fun w => .sneImm (fieldX w) (fieldKK w)) fun _ => encXKK_of_fieldOp,
    encoded_of_mask_F00F .seReg fun _ _ => rfl,
    nofun⟩

theorem opcodeRowsAlu_encoded : ∀ row ∈ opcodeRowsAlu, row.Encoded := by
  simp only [opcodeRowsAlu, List.forall_mem_cons]
  exact ⟨
    encoded_of_mask_F000 (fun w => .ldImm (fieldX w) (fieldKK w)) fun _ => encXKK_of_fieldOp,
    encoded_of_mask_F000 (fun w => .addImm (fieldX w) (fieldKK w)) fun _ => encXKK_of_fieldOp,
    encoded_of_mask_F00F .ldReg fun _ _ => rfl,
    encoded_of_mask_F00F .orReg fun _ _ => rfl,
    encoded_of_mask_F00F .andReg fun _ _ => rfl,
    encoded_of_mask_F00F .xorReg fun _ _ => rfl,
    encoded_of_mask_F00F .addReg fun _ _ => rfl,
    encoded_of_mask_F00F .subReg fun _ _ => rfl,
    encoded_of_mask_F00F .shr fun _ _ => rfl,
    encoded_of_mask_F00F .subn fun _ _ => rfl,
    encoded_of_mask_F00F .shl fun _ _ => rfl,
    encoded_of_mask_F00F .sneReg fun _ _ => rfl,
    nofun⟩

theorem opcodeRowsIndex_encoded : ∀ row ∈ opcodeRowsIndex, row.Encoded := by
  simp only [opcodeRowsIndex, List.forall_mem_cons]
  exact ⟨
    encoded_of_mask_F000 (fun w => .ldI (fieldNNN w)) fun _ => encNNN_of_fieldOp,
    encoded_of_mask_F000 (fun w => .jpV0 (fieldNNN w)) fun _ => encNNN_of_fieldOp,
    encoded_of_mask_F000 (fun w => .rnd (fieldX w) (fieldKK w)) fun _ => encXKK_of_fieldOp,
    encoded_of_mask_F000 (fun w => .drw (fieldX w) (fieldY w) (fieldN w)) fun _ => encXYN_of_fieldOp,
    encoded_of_mask_F0FF .skp fun _ => rfl,
    encoded_of_mask_F0FF .sknp fun _ => rfl,
    nofun⟩

theorem opcodeRowsMisc_encoded : ∀ row ∈ opcodeRowsMisc, row.Encoded := by
  simp only [opcodeRowsMisc, List.forall_mem_cons]
  exact ⟨
    encoded_of_mask_F0FF .ldVxDt fun _ => rfl,
    encoded_of_mask_F0FF .ldVxK fun _ => rfl,
    encoded_of_mask_F0FF .ldDtVx fun _ => rfl,
    encoded_of_mask_F0FF .ldStVx fun _ => rfl,
    encoded_of_mask_F0FF .addI fun _ => rfl,
    encoded_of_mask_F0FF .ldF fun _ => rfl,
    encoded_of_mask_F0FF .ldB fun _ => rfl,
    encoded_of_mask_F0FF .storeRegs fun _ => rfl,
    encoded_of_mask_F0FF .loadRegs fun _ => rfl,
    nofun⟩

theorem opcodeRows_encoded : ∀ row ∈ opcodeRows, row.Encoded := by
  simp only [opcodeRows, List.forall_mem_append]
  exact ⟨⟨⟨opcodeRowsFlow_encoded, opcodeRowsAlu_encoded⟩, opcodeRowsIndex_encoded⟩, opcodeRowsMisc_encoded⟩

end Rows

/-- Two different rows of the table differ in a digit that both write. -/
theorem opcodeRows_patterns_disjoint :
    ∀ r₁ ∈ opcodeRows, ∀ r₂ ∈ opcodeRows, r₁.pattern &&& r₂.mask = r₂.pattern &&& r₁.mask → r₁ = r₂ := by
  decide

theorem opcodeRow_unique {w : Word} {r₁ r₂ : OpcodeRow} (h₁ : r₁ ∈ opcodeRows) (h₂ : r₂ ∈ opcodeRows)
    (hs₁ : w &&& r₁.mask = r₁.pattern) (hs₂ : w &&& r₂.mask = r₂.pattern) : r₁ = r₂ :=
  opcodeRows_patterns_disjoint r₁ h₁ r₂ h₂ (by rw [← hs₁, ← hs₂, BitVec.and_assoc, BitVec.and_assoc, BitVec.and_comm r₁.mask])

theorem exists_row_of_decodeWord {w : Word} {i : Instr} (h : decodeWord w = some i) :
    ∃ row ∈ opcodeRows, row.mnemonic = i.mnemonic ∧ w &&& row.mask = row.pattern := by
  obtain ⟨row, hrow, hname, hsel⟩ := encode_in_row i
  rw [encode_of_decodeWord h] at hsel
  exact ⟨row, hrow, hname, of_decide_eq_true hsel⟩

/-- Settles O2: the words the decoder accepts are the encodings, and so are the words the rows select; an instruction's own row is the
only one that selects its word. -/
theorem decodeFollowsTheRows : Obligations.DecodeFollowsTheRows := by
  unfold Obligations.DecodeFollowsTheRows
  refine fun w => ⟨⟨?decoded, ?selected⟩, ?mnemonic, fun _ h₁ _ h₂ => opcodeRow_unique h₁ h₂⟩
  case decoded =>
    rintro ⟨i, h⟩
    obtain ⟨row, hrow, -, hsel⟩ := exists_row_of_decodeWord h
    exact ⟨row, hrow, hsel⟩
  case selected =>
    rintro ⟨row, hrow, hsel⟩
    obtain ⟨i, hi⟩ := opcodeRows_encoded row hrow w hsel
    exact ⟨i, decodeWord_eq_some_iff.2 hi⟩
  case mnemonic =>
    intro i h row hrow hsel
    obtain ⟨own, hown, hname, hown_sel⟩ := exists_row_of_decodeWord h
    rwa [opcodeRow_unique hrow hown hsel hown_sel]

end Sys2Proof
end

section
/-! The two paths of `advance`: what each leaves, and how `last_time` tells them apart (40_scheduler R127 to R135). -/

namespace Sys2Proof.Machine.Scheduler

variable (c : Scheduler) (tol : NNRat) (sample : Nat)

/-- The history with the sample's delta at the cursor (R127). -/
def nextHistory : Vector Nat 4 := c.pushed (c.snapped tol (c.rawDelta sample))

/-- The ticks before whole steps are taken out (R128, R129). -/
def nextTicks : Nat := c.accumulator + c.smoothed (historySum (c.nextHistory tol sample))

/-- The Scheduler the normal path leaves (R128 to R131). -/
def normalNext : Scheduler :=
  { c with
    lastTime := c.sampleTime sample
    accumulator := c.nextTicks tol sample - c.wholeSteps (c.nextTicks tol sample) * c.tickPerStep
    residual := c.carry (historySum (c.nextHistory tol sample)) % 4
    history := c.nextHistory tol sample
    cursor := c.cursor + 1 }

@[simp] theorem normalNext_lastTime : (c.normalNext tol sample).lastTime = c.sampleTime sample := rfl
@[simp] theorem normalNext_accumulator : (c.normalNext tol sample).accumulator =
    c.nextTicks tol sample - c.wholeSteps (c.nextTicks tol sample) * c.tickPerStep := rfl
@[simp] theorem normalNext_residual :
    (c.normalNext tol sample).residual = c.carry (historySum (c.nextHistory tol sample)) % 4 := rfl
@[simp] theorem normalNext_history : (c.normalNext tol sample).history = c.nextHistory tol sample := rfl

variable {c tol sample} {d : Scheduler} {n : Nat}

/-- The two paths of `advance`, by its quantised count (R130, R131). -/
theorem advanceWith_cases (h : c.advanceWith tol sample = (n, d)) :
    (c.stepMaximum < c.wholeSteps (c.nextTicks tol sample) ∧ n = c.stepMaximum ∧ d = c.resync) ∨
    (n ≤ c.stepMaximum ∧ n = c.wholeSteps (c.nextTicks tol sample) ∧ d = c.normalNext tol sample) := by
  rcases c.commit_cases sample (c.nextHistory tol sample) with ⟨hover, e⟩ | ⟨hle, e⟩
  · cases h.symm.trans e
    exact .inl ⟨hover, rfl, rfl⟩
  · cases h.symm.trans e
    exact .inr ⟨hle, rfl, rfl⟩

/-- An overflow leaves the sentinel, so another `last_time` marks the normal path (D26). -/
theorem advanceWith_normal (h : c.advanceWith tol sample = (n, d)) (hd : d.lastTime ≠ 0) :
    n ≤ c.stepMaximum ∧ n = c.wholeSteps (c.nextTicks tol sample) ∧ d = c.normalNext tol sample := by
  rcases advanceWith_cases h with ⟨-, -, rfl⟩ | hnormal
  · exact absurd rfl hd
  · exact hnormal

/-- With legal parameters the normal path leaves no sentinel, so 0 marks the overflow (D26). -/
theorem advanceWith_overflow (htick : 1 ≤ c.tickPerStep) (hmult : 1 ≤ c.stepMultiplicity)
    (h : c.advanceWith tol sample = (n, d)) (hd : d.lastTime = 0) : n = c.stepMaximum ∧ d = c.resync := by
  rcases advanceWith_cases h with ⟨-, hover⟩ | ⟨-, -, rfl⟩
  · exact hover
  · exact absurd hd (c.sampleTime_pos sample htick hmult).ne'

/-- A count above the maximum takes the overflow path (R130, D26). -/
theorem advanceWith_eq_resync (hover : c.stepMaximum < c.wholeSteps (c.nextTicks tol sample)) :
    c.advanceWith tol sample = (c.stepMaximum, c.resync) :=
  if_pos hover

/-- A count within the maximum takes the normal path (R131). -/
theorem advanceWith_eq_normalNext (hle : c.wholeSteps (c.nextTicks tol sample) ≤ c.stepMaximum) :
    c.advanceWith tol sample = (c.wholeSteps (c.nextTicks tol sample), c.normalNext tol sample) :=
  if_neg hle.not_gt

/-- Both paths answer at most the maximum (R130, R133). -/
theorem advanceWith_count_le (h : c.advanceWith tol sample = (n, d)) : n ≤ c.stepMaximum := by
  rcases advanceWith_cases h with ⟨-, rfl, -⟩ | ⟨hle, -⟩
  · exact le_rfl
  · exact hle

/-- Neither path writes a parameter or the snap table (R36, R39). -/
theorem advanceWith_keeps_parameters (h : c.advanceWith tol sample = (n, d)) :
    d.tickPerStep = c.tickPerStep ∧ d.stepMultiplicity = c.stepMultiplicity ∧ d.stepMaximum = c.stepMaximum ∧
      d.snapTable = c.snapTable := by
  rcases advanceWith_cases h with ⟨-, -, rfl⟩ | ⟨-, -, rfl⟩ <;> exact ⟨rfl, rfl, rfl, rfl⟩

theorem historySum_eq (v : Vector Nat 4) :
    historySum v = v[(0 : Fin 4)] + v[(1 : Fin 4)] + v[(2 : Fin 4)] + v[(3 : Fin 4)] := rfl

theorem nextHistory_get (k : Fin 4) :
    (c.nextHistory tol sample)[k] = if k = c.cursor then c.snapped tol (c.rawDelta sample) else c.history[k] :=
  c.pushed_get _ k

end Sys2Proof.Machine.Scheduler

namespace Sys2Proof.Machine

open Scheduler

/-- Settles O50: `resync` field by field; the overflow path by the count (`advanceWith_eq_resync`). -/
theorem resyncState : Obligations.ResyncState := by
  unfold Obligations.ResyncState
  refine ⟨fun c => ⟨rfl, rfl, rfl, rfl, fun k => ?_, rfl, rfl, rfl, rfl, rfl⟩, fun s hs => whenIdle_of_idle s _ hs, ?overflow⟩
  · simp [Scheduler.resync]
  case overflow =>
    rintro c tol sample total n rfl rfl hover
    refine advanceWith_eq_resync ?_
    rwa [nextTicks, smoothed, ← Nat.add_assoc]

/-- Settles O53: the two paths of `advance` (`advanceWith_normal`, `advanceWith_overflow`), and the width check as `advance` makes it. -/
theorem advanceBounds : Obligations.AdvanceBounds := by
  unfold Obligations.AdvanceBounds
  refine ⟨fun c d tol sample n htick hmult h => ⟨advanceWith_count_le h, fun hd => ?normal, advanceWith_overflow htick hmult h,
    advanceWith_keeps_parameters h⟩, fun s sample hs => ?block, fitsWidth_iff⟩
  case normal =>
    obtain ⟨-, rfl, rfl⟩ := advanceWith_normal h hd
    exact ⟨c.dvd_wholeSteps _, Nat.le_of_lt_succ (Nat.mod_lt _ (by decide)), c.sub_wholeSteps_lt _ htick hmult,
      (nextHistory_get _).trans (if_pos rfl), fun k hk => (nextHistory_get k).trans (if_neg hk), rfl⟩
  case block =>
    rw [advance, whenIdle_of_idle s _ hs, Scheduler.advance]
    split <;> rfl

/-- Settles O54: the steps and the accumulator hold the ticks before quantisation, and those obey `smoothed_conserves`. -/
theorem advanceConservesTicks : Obligations.AdvanceConservesTicks := by
  unfold Obligations.AdvanceConservesTicks
  intro c d tol sample n _ _ h hd
  obtain ⟨-, rfl, rfl⟩ := advanceWith_normal h hd
  have hsmooth := c.smoothed_conserves (historySum (c.nextHistory tol sample))
  have hsteps := c.wholeSteps_mul_le (c.nextTicks tol sample)
  rw [← historySum_eq, normalNext_accumulator, normalNext_residual, normalNext_history, Nat.add_sub_cancel' hsteps, nextTicks]
  omega

end Sys2Proof.Machine
end

section
/-! The delta that `advance` measures, and its replacement by a registered period (40_scheduler R122 to R126). -/

namespace Sys2Proof.Machine.Scheduler

variable {c d : Scheduler} {tol : NNRat} {sample n : Nat}

theorem rawDelta_of_sentinel (hlast : c.lastTime = 0) : c.rawDelta sample = min c.unit c.spikeCap := by
  rw [rawDelta, sampleTime, baseTime, if_pos hlast, if_pos hlast, Nat.sub_sub_self (Nat.le_max_right _ _)]

theorem rawDelta_of_lastTime (hlast : c.lastTime ≠ 0) : c.rawDelta sample = min (sample - c.lastTime) c.spikeCap := by
  rw [rawDelta, sampleTime, baseTime, if_neg hlast, if_neg hlast, ← Nat.sub_max_sub_right, Nat.sub_self, Nat.max_zero]

theorem snapped_of_first {raw p : Nat} {before after : List Nat} (htable : c.snapTable = before ++ p :: after)
    (hbefore : ∀ q ∈ before, c.accepts tol raw q = false) (hp : c.accepts tol raw p = true) : c.snapped tol raw = p := by
  have hfind : c.snapTable.find? (c.accepts tol raw) = some p :=
    List.find?_eq_some_iff_append.2 ⟨hp, before, after, htable, by simpa using hbefore⟩
  rw [snapped, hfind, Option.getD_some]

theorem snapped_of_none {raw : Nat} (hnone : ∀ q ∈ c.snapTable, c.accepts tol raw q = false) : c.snapped tol raw = raw := by
  have hfind : c.snapTable.find? (c.accepts tol raw) = none := List.find?_eq_none.2 (by simpa using hnone)
  rw [snapped, hfind, Option.getD_none]

/-- The ceiling of the quotient, by what it is least for (R122). -/
theorem snapPeriod_le_iff {tps hz p : Nat} (hz1 : 1 ≤ hz) : snapPeriod tps hz ≤ p ↔ tps ≤ p * hz := by
  rw [snapPeriod, ← Nat.ceilDiv_eq_add_pred_div, ceilDiv_le_iff_le_mul hz1, Nat.mul_comm]

end Sys2Proof.Machine.Scheduler

namespace Sys2Proof.Machine

open Scheduler

/-- Settles O51: the delta by the sentinel test, and `last_time` on the normal path (`advanceWith_normal`). -/
theorem advanceMeasuresDelta : Obligations.AdvanceMeasuresDelta := by
  unfold Obligations.AdvanceMeasuresDelta
  refine fun c tol sample _ _ => ⟨?delta, fun hd => ?lastTime⟩
  case delta =>
    split
    · next hlast => exact rawDelta_of_sentinel hlast
    · next hlast => exact rawDelta_of_lastTime hlast
  case lastTime =>
    obtain ⟨-, -, hnext⟩ := advanceWith_normal (d := (c.advanceWith tol sample).2) rfl hd
    rw [hnext, normalNext_lastTime]
    rfl

/-- Settles O52, by the scan of the table with the exact comparison (`accepts_iff`). -/
theorem snapFirstMatch : Obligations.SnapFirstMatch := by
  unfold Obligations.SnapFirstMatch
  intro c tol raw htick
  simp only [← c.accepts_iff tol raw _ htick, Bool.not_eq_true]
  exact ⟨fun before after p => snapped_of_first, snapped_of_none⟩

/-- Settles O57: the rule's cases (`registerSnapWith_cases`), with the period as the ceiling of the quotient (`snapPeriod_le_iff`). -/
theorem registerSnapAppends : Obligations.RegisterSnapAppends := by
  unfold Obligations.RegisterSnapAppends
  refine ⟨fun c tps cap hz => ?rule, fun s hz hs => ⟨fun c hc => ?next, fun r hr => ?refused⟩⟩
  case rule =>
    rcases c.registerSnapWith_cases tps cap hz with ⟨hroom, hz1, e⟩ | ⟨hfull, e⟩ | ⟨hroom, hz0, e⟩
    · exact ⟨fun _ _ => ⟨_, e, (snapPeriod_le_iff hz1).1 le_rfl, fun _ => (snapPeriod_le_iff hz1).2⟩,
        fun hfull => absurd hroom hfull.not_gt, fun _ hz0 => absurd hz1 (by omega)⟩
    · exact ⟨fun hroom => absurd hroom hfull.not_gt, fun _ => e, fun hroom => absurd hroom hfull.not_gt⟩
    · exact ⟨fun _ hz1 => absurd hz1 (by omega), fun hfull => absurd hroom hfull.not_gt, fun _ _ => e⟩
  case next =>
    rw [registerSnapFrequency, whenIdle_of_idle s _ hs, registerSnap, hc, andThen_next]
    rfl
  case refused =>
    rw [registerSnapFrequency, whenIdle_of_idle s _ hs, registerSnap, hr, andThen_refused]

end Sys2Proof.Machine
end

section
/-! Under the premises of R138 the tick values of `advance` hold the width (40_scheduler R138). -/

namespace Sys2Proof.Machine.Scheduler

variable {c d : Scheduler} {tol : NNRat} {sample n : Nat}

/-- The bound of a recorded delta: the spike clamp or a registered period (R133). -/
def DeltaBound (c : Scheduler) (x : Nat) : Prop := x ≤ c.tickPerStep * c.stepMaximum ∨ ∃ p ∈ c.snapTable, x ≤ p

theorem WidthPremises.four_mul_lt {tw x : Nat} (hw : c.WidthPremises tw sample) (hx : c.DeltaBound x) : 4 * x + 3 < 2 ^ tw := by
  rcases hx with hx | ⟨p, hp, hx⟩
  · have := hw.clamp
    omega
  · have := hw.period p hp
    omega

theorem WidthPremises.lt_of_deltaBound {tw x : Nat} (hw : c.WidthPremises tw sample) (hx : c.DeltaBound x) : x < 2 ^ tw := by
  have := hw.four_mul_lt hx
  omega

theorem WidthPremises.unit_add_lt {tw x : Nat} (hw : c.WidthPremises tw sample) (hx : c.DeltaBound x) : c.unit + x < 2 ^ tw := by
  unfold unit
  rcases hx with hx | ⟨p, hp, hx⟩
  · have := hw.total
    omega
  · have := hw.totalPeriod p hp
    omega

theorem Inv.tickPerStep_deltaBound (hc : c.Inv) : c.DeltaBound c.tickPerStep := by
  obtain ⟨-, -, hmax⟩ := hc.params_legal
  exact .inl (Nat.le_mul_of_pos_right _ (Nat.zero_lt_of_lt hmax))

theorem Inv.stepMaximum_deltaBound (hc : c.Inv) : c.DeltaBound c.stepMaximum :=
  .inl (Nat.le_mul_of_pos_left _ hc.params_legal.1)

theorem Inv.nextHistory_deltaBound (hc : c.Inv) (k : Fin 4) : c.DeltaBound (c.nextHistory tol sample)[k] := by
  rw [nextHistory_get]
  split
  · exact c.snapped_rawDelta_bound tol sample
  · exact hc.history k

/-- A sum of four is at most four times the greatest of them. -/
theorem exists_historySum_le (v : Vector Nat 4) : ∃ k : Fin 4, historySum v ≤ 4 * v[k] := by
  by_contra hno
  have hno := fun k => Nat.lt_of_not_le fun hk => hno ⟨k, hk⟩
  have h0 := hno 0
  have h1 := hno 1
  have h2 := hno 2
  have h3 := hno 3
  rw [historySum_eq] at *
  omega

/-- The average and the carry add at most the greatest entry of the new history (R127, R128). -/
theorem smoothed_le {sum x : Nat} (hres : c.residual ≤ 3) (hsum : sum ≤ 4 * x) : c.smoothed sum ≤ x := by
  have := c.smoothed_conserves sum
  omega

theorem Inv.historySum_nextHistory_lt {tw : Nat} (hc : c.Inv) (hw : c.WidthPremises tw sample) :
    historySum (c.nextHistory tol sample) < 2 ^ tw := by
  obtain ⟨k, hk⟩ := exists_historySum_le (c.nextHistory tol sample)
  have := hw.four_mul_lt (hc.nextHistory_deltaBound (tol := tol) (sample := sample) k)
  omega

theorem Inv.nextTicks_lt {tw : Nat} (hc : c.Inv) (hw : c.WidthPremises tw sample) : c.nextTicks tol sample < 2 ^ tw := by
  obtain ⟨k, hk⟩ := exists_historySum_le (c.nextHistory tol sample)
  calc c.nextTicks tol sample
      ≤ c.accumulator + (c.nextHistory tol sample)[k] := Nat.add_le_add_left (smoothed_le hc.residual hk) _
    _ ≤ c.unit + (c.nextHistory tol sample)[k] := Nat.add_le_add_right hc.accumulator.le _
    _ < 2 ^ tw := hw.unit_add_lt (hc.nextHistory_deltaBound k)

/-- The registers `advance` writes hold `tw` bits on either path (R138). -/
theorem Inv.registers_lt {tw : Nat} (hc : c.Inv) (hlast : c.lastTime < 2 ^ tw) (hw : c.WidthPremises tw sample)
    (h : c.advanceWith tol sample = (n, d)) :
    d.lastTime < 2 ^ tw ∧ d.accumulator < 2 ^ tw ∧ d.residual < 2 ^ tw ∧ ∀ j : Fin 4, d.history[j] < 2 ^ tw := by
  rcases advanceWith_cases h with ⟨-, -, rfl⟩ | ⟨-, -, rfl⟩
  · have hzero : 0 < 2 ^ tw := Nat.two_pow_pos tw
    refine ⟨hzero, hzero, hzero, fun j => ?_⟩
    simpa [Scheduler.resync] using hw.lt_of_deltaBound hc.tickPerStep_deltaBound
  · have hthree : 3 < 2 ^ tw := Nat.lt_of_le_of_lt (Nat.le_add_left _ _) hw.clamp
    exact ⟨sampleTime_lt hlast hw, Nat.lt_of_le_of_lt (Nat.sub_le _ _) (hc.nextTicks_lt hw),
      Nat.lt_of_le_of_lt (Nat.le_of_lt_succ (Nat.mod_lt _ (by decide))) hthree,
      fun j => hw.lt_of_deltaBound (hc.nextHistory_deltaBound j)⟩

end Sys2Proof.Machine.Scheduler

namespace Sys2Proof.Machine

open Scheduler

/-- Settles O55: one bounded entry bounds the sum of the history (`exists_historySum_le`), and the sum bounds the ticks (`nextTicks_lt`). -/
theorem advanceStaysInWidth : Obligations.AdvanceStaysInWidth := by
  unfold Obligations.AdvanceStaysInWidth
  intro c d tol tw sample n hinv hlast hw h
  have hcount := (advanceWith_count_le h).trans_lt (hw.lt_of_deltaBound hinv.stepMaximum_deltaBound)
  have hdelta := hw.lt_of_deltaBound (c.snapped_rawDelta_bound tol sample)
  have hticks := hinv.nextTicks_lt hw (tol := tol)
  rw [nextTicks, smoothed, ← Nat.add_assoc] at hticks
  obtain ⟨hlast', hacc', hres', hhist'⟩ := hinv.registers_lt hlast hw h
  exact ⟨hcount, hlast', hacc', hres', hhist', sampleTime_lt hlast hw, hdelta, hinv.historySum_nextHistory_lt hw, hticks⟩

end Sys2Proof.Machine
end

section
/-! Steady input: samples one step apart give one step each (40_scheduler R136). -/

namespace Sys2Proof.Machine.Scheduler

variable {c d : Scheduler} {tol : NNRat} {sample n : Nat}

/-- A Scheduler with multiplicity 1, a steady history, nothing left over, and no snap entry that alters a delta of one step. -/
structure Steady (tol : NNRat) (c : Scheduler) : Prop where
  tick : 1 ≤ c.tickPerStep
  mult : c.stepMultiplicity = 1
  max : 1 < c.stepMaximum
  accumulator : c.accumulator = 0
  residual : c.residual = 0
  history : ∀ j : Fin 4, c.history[j] = c.tickPerStep
  snap : c.snapped tol c.tickPerStep = c.tickPerStep

/-- A steady Scheduler that measures the next sample as it is and one step after the last. -/
structure SteadyAt (tol : NNRat) (sample : Nat) (c : Scheduler) : Prop extends c.Steady tol where
  sampleTime : c.sampleTime sample = sample
  rawDelta : c.rawDelta sample = c.tickPerStep

/-- What a steady sample leaves: `last_time` and the cursor move on. -/
def afterSteady (sample : Nat) (c : Scheduler) : Scheduler := { c with lastTime := sample, cursor := c.cursor + 1 }

theorem Steady.tick_le_spikeCap (h : c.Steady tol) : c.tickPerStep ≤ c.spikeCap :=
  Nat.le_mul_of_pos_right _ (Nat.lt_trans Nat.zero_lt_one h.max)

theorem Steady.unit_eq (h : c.Steady tol) : c.unit = c.tickPerStep := by rw [unit, h.mult, Nat.mul_one]

/-- The first sample, from the sentinel, of at least one step (R123). -/
theorem Steady.at_sentinel (h : c.Steady tol) (hlast : c.lastTime = 0) (hfirst : c.tickPerStep ≤ sample) :
    c.SteadyAt tol sample :=
  { h with
    sampleTime := by rw [Scheduler.sampleTime, if_pos hlast, h.unit_eq, Nat.max_eq_left hfirst]
    rawDelta := by rw [rawDelta_of_sentinel hlast, h.unit_eq, Nat.min_eq_left h.tick_le_spikeCap] }

/-- A later sample, one step after the last (R124). -/
theorem Steady.at_next (h : c.Steady tol) (hlast : c.lastTime ≠ 0) : c.SteadyAt tol (c.lastTime + c.tickPerStep) :=
  { h with
    sampleTime := by rw [Scheduler.sampleTime, if_neg hlast, Nat.max_eq_left (Nat.le_add_right _ _)]
    rawDelta := by rw [rawDelta_of_lastTime hlast, Nat.add_sub_cancel_left, Nat.min_eq_left h.tick_le_spikeCap] }

theorem SteadyAt.nextHistory_eq (h : c.SteadyAt tol sample) : c.nextHistory tol sample = c.history := by
  refine Vector.ext fun k hk => ?_
  have hget := c.nextHistory_get (tol := tol) (sample := sample) ⟨k, hk⟩
  rw [h.rawDelta, h.snap, ← h.history ⟨k, hk⟩, ite_self] at hget
  exact hget

theorem SteadyAt.historySum_eq (h : c.SteadyAt tol sample) : historySum (c.nextHistory tol sample) = 4 * c.tickPerStep := by
  rw [h.nextHistory_eq, Scheduler.historySum_eq, h.history, h.history, h.history, h.history]
  omega

/-- A steady sample brings in exactly the ticks of one step (R127, R128). -/
theorem SteadyAt.nextTicks_eq (h : c.SteadyAt tol sample) : c.nextTicks tol sample = c.tickPerStep := by
  have hsmooth := c.smoothed_conserves (4 * c.tickPerStep)
  rw [nextTicks, h.historySum_eq, h.accumulator]
  rw [h.residual] at hsmooth
  omega

theorem Steady.wholeSteps_tick (h : c.Steady tol) : c.wholeSteps c.tickPerStep = 1 := by
  rw [wholeSteps, Nat.div_self h.tick, h.mult]

theorem SteadyAt.carry_mod_eq (h : c.SteadyAt tol sample) : c.carry (historySum (c.nextHistory tol sample)) % 4 = 0 := by
  rw [carry, h.historySum_eq, h.residual]
  omega

theorem SteadyAt.normalNext_eq (h : c.SteadyAt tol sample) : c.normalNext tol sample = c.afterSteady sample := by
  rw [normalNext, h.nextTicks_eq, h.wholeSteps_tick, h.carry_mod_eq, h.nextHistory_eq, h.sampleTime, Nat.one_mul, Nat.sub_self,
    afterSteady, h.accumulator, h.residual]

/-- A steady sample takes one step and leaves everything but `last_time` and the cursor (R136). -/
theorem SteadyAt.advanceWith (h : c.SteadyAt tol sample) : c.advanceWith tol sample = (1, c.afterSteady sample) := by
  have hcount : c.wholeSteps (c.nextTicks tol sample) = 1 := by rw [h.nextTicks_eq, h.wholeSteps_tick]
  rw [advanceWith_eq_normalNext (hcount.trans_le h.max.le), hcount, h.normalNext_eq]

theorem SteadyAt.steady_afterSteady (h : c.SteadyAt tol sample) : (c.afterSteady sample).Steady tol := { h with }

theorem SteadyAt.sample_ne_zero (h : c.SteadyAt tol sample) : sample ≠ 0 := by
  have hpos := c.sampleTime_pos sample h.tick h.mult.ge
  rw [h.sampleTime] at hpos
  exact hpos.ne'

/-- Feeding one more sample at the end is one more `advance`. -/
theorem feed_concat {ts ns : List Nat} {t : Nat} {e : Scheduler} (hfeed : feed tol ts c = (ns, d))
    (hstep : d.advanceWith tol t = (n, e)) : feed tol (ts ++ [t]) c = (ns ++ [n], e) := by
  induction ts generalizing c ns with
  | nil =>
    cases hfeed
    simp [feed, hstep]
  | cons u us ih =>
    cases hfeed
    simp [feed, ih (c := (c.advanceWith tol u).2) rfl]

/-- Any number of samples one step apart gives one step each, and the Scheduler stays steady for the next (R136). -/
theorem SteadyAt.feed (h : c.SteadyAt tol sample) (k : Nat) :
    ∃ d, Scheduler.feed tol ((List.range k).map fun j => sample + j * c.tickPerStep) c = (List.replicate k 1, d) ∧
      d.SteadyAt tol (sample + k * c.tickPerStep) ∧ d.tickPerStep = c.tickPerStep := by
  induction k with
  | zero => exact ⟨c, rfl, by simpa using h, rfl⟩
  | succ k ih =>
    obtain ⟨d, hfeed, hd, etick⟩ := ih
    refine ⟨d.afterSteady (sample + k * c.tickPerStep), ?_, ?_, etick⟩
    · rw [List.range_succ, List.map_append, List.replicate_succ']
      exact feed_concat hfeed hd.advanceWith
    · have hnext := hd.steady_afterSteady.at_next hd.sample_ne_zero
      rw [Nat.succ_mul, ← Nat.add_assoc]
      exact etick ▸ hnext

end Sys2Proof.Machine.Scheduler

namespace Sys2Proof.Machine

open Scheduler

/-- Settles O56: every sample is due one step after the last, and takes one step (`SteadyAt.feed`, `SteadyAt.advanceWith`). -/
theorem steadyInputGivesOneStepEach : Obligations.SteadyInputGivesOneStepEach := by
  unfold Obligations.SteadyInputGivesOneStepEach
  intro c tol first k htick hmult hmax hlast hacc hres hhist hsnap hfirst
  obtain ⟨d, hfeed, hd, etick⟩ :=
    (Steady.at_sentinel ⟨htick, hmult, hmax, hacc, hres, hhist, hsnap⟩ hlast hfirst).feed k
  refine ⟨d.afterSteady (first + k * c.tickPerStep), ?_, hd.accumulator, hd.residual, fun j => (hd.history j).trans etick, rfl⟩
  rw [List.range_succ, List.map_append, List.replicate_succ']
  exact feed_concat hfeed hd.advanceWith

end Sys2Proof.Machine
end

section
/-! The branches of a slot, and the step that runs one (41_vm_step R157 to R162). -/

namespace Sys2Proof

theorem decode_pair_eq_ok_iff {hi lo : Byte} {i : Instr} : decode [hi, lo] = .ok (i, []) ↔ decodeWord (wordOfBytes hi lo) = some i := by
  cases hd : decodeWord (wordOfBytes hi lo) <;> simp [decode, hd]

theorem decodeWord_eq_none_of_decode_error {hi lo : Byte} {e : DecodeError} (h : decode [hi, lo] = .error e) :
    decodeWord (wordOfBytes hi lo) = none := by
  cases hd : decodeWord (wordOfBytes hi lo) with
  | none => rfl
  | some i => simp [decode, hd] at h

end Sys2Proof

namespace Sys2Proof.Machine

variable {q : Rat} {s t u : State}

theorem slot_of_illegal_pc (h : ¬ fetchLegal s.pc.toNat = true) : slot q s = .next ((s.timerTick q).raise .memoryOutOfBounds) :=
  if_neg h

theorem slot_of_legal_pc (h : fetchLegal s.pc.toNat = true) : slot q s = runWord s.fetchWord (s.timerTick q).advancePc :=
  if_pos h

/-- Everything the end of a slot that ran an instruction does (R162). -/
theorem finishSlot_eq (u : State) : finishSlot u = { u with lastKeys := if u.fault = none then u.keys else u.lastKeys } := by
  rw [← finishSlot_lastKeys, ← finishSlot_frame]

/-- The call after a slot, by whether it goes on (R157). -/
theorem State.countSlot_eq (u : State) (c : StepCall) :
    u.countSlot c =
      { u with call := if u.fault = none ∧ 1 < c.slotsLeft then some { c with slotsLeft := c.slotsLeft - 1 } else none } := by
  have ends_iff : (u.fault.isSome || decide (c.slotsLeft ≤ 1)) = true ↔ ¬ (u.fault = none ∧ 1 < c.slotsLeft) := by
    cases u.fault <;> simp
  rw [State.countSlot_frame, State.countSlot_call, if_congr ends_iff rfl rfl, ite_not]

theorem step_of_slot {c : StepCall} (hc : s.call = some c) (hf : s.fault = none) (hslot : slot c.tdpi s = .next u) :
    step s = .next (u.countSlot c) := by
  simp [step, callSlot, hc, hf, hslot]

/-- Settles O5: the slot goes through the fetch check and the decoder to `exec` (`slot_of_legal_pc`, `runWord_of_decodes`), and what
follows the instruction is the key latch and the count of the call (`finishSlot_eq`, `State.countSlot_eq`). -/
theorem stepRunsDecodedInstruction : Obligations.StepRunsDecodedInstruction := by
  unfold Obligations.StepRunsDecodedInstruction
  intro s u c i hc hf hlegal hdec hexec
  have hrun : exec i (s.timerTick c.tdpi).advancePc = .next u := hexec
  have hslot : slot c.tdpi s = .next (finishSlot u) := by
    rw [slot_of_legal_pc hlegal, State.fetchWord, Memory.readWord, runWord_of_decodes (decode_pair_eq_ok_iff.1 hdec), hrun,
      andThen_next]
  rw [step_of_slot hc hf hslot, State.countSlot_eq, finishSlot_eq]

/-- Settles O6: the state after the tick is `State.timerTick`, which `slot` goes on from. -/
theorem timerTickOfASlot : Obligations.TimerTickOfASlot := by
  unfold Obligations.TimerTickOfASlot
  intro s q _ _
  have htick := s.timerTick_eq q
  refine ⟨s.timerTick q, congrArg State.timerAcc htick, ?delay, ?sound, rfl, rfl⟩
  case delay => rw [congrArg State.dt htick, dropTimer_toNat]
  case sound => rw [congrArg State.st htick, dropTimer_toNat]

/-- Settles O7: outside the two regions the fetch check fails (`slot_of_illegal_pc`). -/
theorem fetchCheckFaults : Obligations.FetchCheckFaults := by
  unfold Obligations.FetchCheckFaults
  intro s q houtside
  refine slot_of_illegal_pc fun hlegal => houtside ?_
  simpa only [fetchLegal, Bool.and_eq_true, inRegion_iff] using hlegal

/-- Settles O8: at a legal `PC` the word fetched is the one that does not decode (`runWord_of_unmatched`). -/
theorem unmatchedWordFaults : Obligations.UnmatchedWordFaults := by
  unfold Obligations.UnmatchedWordFaults
  intro s q w hlegal hdec
  have hunmatched : decodeWord s.fetchWord = none := decodeWord_eq_none_of_decode_error hdec
  rw [slot_of_legal_pc hlegal, runWord_of_unmatched hunmatched]
  rfl

/-! Keys and key latch over a slot (R29, R162). -/

/-- What a slot does to the two key fields: `keys` stays, and `last_keys` takes it in unless the slot faulted (R162). -/
theorem slot_keys (h : slot q s = .next t) : t.keys = s.keys ∧ t.lastKeys = if t.fault = none then s.keys else s.lastKeys := by
  rcases slot_cases q s t h with ⟨-, rfl⟩ | ⟨-, -, rfl⟩ | ⟨-, i, u, -, hu, rfl⟩
  · exact ⟨rfl, rfl⟩
  · exact ⟨rfl, rfl⟩
  · obtain ⟨hkeys, hlast, -⟩ := exec_untouched i _ u hu
    rw [finishSlot_eq, hkeys, hlast]
    exact ⟨rfl, rfl⟩

/-- Settles O9 (`slot_keys`). -/
theorem keyLatchAtSlotEnd : Obligations.KeyLatchAtSlotEnd := by
  unfold Obligations.KeyLatchAtSlotEnd
  intro s t q _ h
  obtain ⟨hkeys, hlast⟩ := slot_keys h
  refine ⟨hkeys, fun hf k => ?_, fun hf k => ?_⟩
  · rw [hlast, if_pos hf]
  · rw [hlast, if_neg hf]

/-- Settles O49: `exec` commutes with replacing the timing machinery and the other units (`exec_withTimingOf`). -/
theorem instructionsIgnoreTiming : Obligations.InstructionsIgnoreTiming := by
  unfold Obligations.InstructionsIgnoreTiming
  intro i s t o h
  rw [exec_withTimingOf, h, andThen_next]

end Sys2Proof.Machine
end

section
/-! The budget and the timer time of a `step` call (41_vm_step R154, R155, R163, R165). -/

namespace Sys2Proof.Machine

variable {q : Rat} {s t : State}

theorem fracPart_eq_fract {p : Rat} (h : 0 ≤ p) : fracPart p = Int.fract p := by
  rw [fracPart_eq, natCast_floor_eq_intCast_floor h, Int.self_sub_floor]

/-- Steps 1 and 2 of `step` with a non-negative budget (R154). -/
theorem State.takeBudget_eq {ips speed delta : Rat} (h : 0 ≤ s.instrAcc + ips * delta * speed) :
    s.takeBudget ips speed delta = { s with instrAcc := Int.fract (s.instrAcc + ips * delta * speed) } := by
  rw [← fracPart_eq_fract h]
  rfl

/-- A call without a slot to run is not opened (R157, R163). -/
theorem State.inCall_of_no_slot {n : Nat} (h : s.fault ≠ none ∨ n = 0) : s.inCall n q = s := by
  refine if_pos ?_
  rw [Bool.or_eq_true, decide_eq_true_iff, Option.isSome_iff_ne_none]
  exact h.symm

theorem State.inCall_of_slots {n : Nat} (hf : s.fault = none) (hn : 1 ≤ n) : s.inCall n q = s.setCall (some ⟨n, q⟩) := by
  refine if_neg ?_
  simp only [hf, Option.isSome_none, Bool.or_false, decide_eq_true_iff]
  omega

theorem runSlots_of_no_slot {n : Nat} (h : s.fault ≠ none ∨ n = 0) : runSlots q n s = .next s := by
  rcases h with hf | rfl
  · exact runSlots_of_fault q n s (Option.isSome_iff_ne_none.2 hf)
  · rfl

theorem step_of_idle (hc : s.call = none) : step s = .next s.beginCall := by
  simp only [step, hc]

/-- The rates of an installation are not negative (R10), so neither is the budget of a call. -/
theorem State.config_budget_nonneg (h : 0 ≤ s.instrAcc) : 0 ≤ s.instrAcc + Config.ips * Config.delta * Config.speed := by
  positivity

/-- On a faulted VM or with a budget below 1 the loop test of R157 finds no slot to run (R163, D4). -/
theorem State.no_slot_to_run {ips speed delta : Rat} (h : s.fault ≠ none ∨ s.instrAcc + ips * delta * speed < 1) :
    (s.takeBudget ips speed delta).fault ≠ none ∨ s.slotCount ips speed delta = 0 := by
  rwa [State.takeBudget_fault, State.slotCount_eq, Nat.floor_eq_zero]

/-- Settles O11: without a slot to run neither the slot loop nor a call begins, and what is left is the taken budget
(`State.takeBudget_eq`). -/
theorem nothingElseMovesWithoutSlots : Obligations.NothingElseMovesWithoutSlots := by
  unfold Obligations.NothingElseMovesWithoutSlots
  refine ⟨fun s ips speed timerHz delta hbudget hidle => ?block, fun s hacc hc hidle => ?opening⟩
  case block => rw [stepBlockWith_eq_runSlots, runSlots_of_no_slot (State.no_slot_to_run hidle), State.takeBudget_eq hbudget]
  case opening =>
    rw [step_of_idle hc, State.beginCall, State.beginCallWith_eq_inCall, State.inCall_of_no_slot (State.no_slot_to_run hidle),
      State.takeBudget_eq (State.config_budget_nonneg hacc)]

/-- Settles O12: the opening by `State.beginCallWith_eq_inCall`, a slot of the call by `State.countSlot_eq`. -/
theorem budgetOfACall : Obligations.BudgetOfACall := by
  unfold Obligations.BudgetOfACall
  refine ⟨fun s ips speed timerHz delta hf hcount => ?opening, fun s t c d hc hstep hd => ?slot, fun s hc => step_of_idle hc⟩
  case opening =>
    have hbudget : 0 ≤ s.instrAcc + ips * delta * speed := zero_le_one.trans ((Nat.one_le_floor_iff _).1 hcount)
    rw [State.beginCallWith_eq_inCall, State.slotCount_eq,
      State.inCall_of_slots (s := s.takeBudget ips speed delta) hf hcount, State.takeBudget_eq hbudget]
    rfl
  case slot =>
    rcases step_cases s t hstep with ⟨hidle, -⟩ | ⟨c', -, -, rfl⟩ | ⟨c', u, hc', -, -, rfl⟩
    · rw [hc] at hidle; cases hidle
    · cases hd
    · obtain rfl : c = c' := Option.some.inj (hc.symm.trans hc')
      rw [State.countSlot_eq] at hd
      dsimp only at hd
      split at hd <;> cases hd
      next hgoes => exact ⟨rfl, Nat.sub_add_cancel hgoes.2.le⟩

/-! Timer time (R158, R165). -/

theorem slot_timerAcc (h : slot q s = .next t) : t.timerAcc = (s.timerTick q).timerAcc := by
  rcases slot_cases q s t h with ⟨-, rfl⟩ | ⟨-, -, rfl⟩ | ⟨-, i, u, -, hu, rfl⟩
  · rfl
  · rfl
  · rw [finishSlot_frame]
    exact (exec_untouched i _ u hu).timerAcc

/-- A slot adds its timer time and keeps the fraction (R158). -/
theorem slot_timerAcc_eq_fract (h : slot q s = .next t) (hacc : 0 ≤ s.timerAcc) (hq : 0 ≤ q) :
    t.timerAcc = Int.fract (s.timerAcc + q) := by
  rw [slot_timerAcc h, State.timerTick_timerAcc, exactSum_eq, fracPart_eq_fract (add_nonneg hacc hq)]

/-- A slot loop that ends without a fault ran its first slot. -/
theorem runSlots_succ_of_no_fault {n : Nat} (h : runSlots q (n + 1) s = .next t) (hf : t.fault = none) :
    ∃ u, slot q s = .next u ∧ runSlots q n u = .next t := by
  cases hs : s.fault.isSome with
  | true =>
    rw [runSlots_of_fault q _ s hs] at h
    cases h
    simp [hf] at hs
  | false =>
    rw [runSlots_succ q n s hs] at h
    exact andThen_eq_next.1 h

theorem fract_fract_add (a b : Rat) : Int.fract (Int.fract a + b) = Int.fract (a + b) := by
  rw [← Int.self_sub_floor a, sub_add_eq_add_sub, Int.fract_sub_intCast]

/-- A slot loop that ends without a fault has added its slots' timer time, up to whole ticks (R165). -/
theorem runSlots_timerAcc (hq : 0 ≤ q) (n : Nat) {a : Rat} (hs : s.timerAcc = Int.fract a) (h : runSlots q n s = .next t)
    (hf : t.fault = none) : t.timerAcc = Int.fract (a + n * q) := by
  induction n generalizing s a with
  | zero => cases h; simpa using hs
  | succ n ih =>
    obtain ⟨u, hu, h⟩ := runSlots_succ_of_no_fault h hf
    have hacc : 0 ≤ s.timerAcc := hs ▸ Int.fract_nonneg a
    have hnext : u.timerAcc = Int.fract (a + q) := by rw [slot_timerAcc_eq_fract hu hacc hq, hs, fract_fract_add]
    rw [ih hnext h]
    congr 1
    push_cast
    ring

/-- Settles O14: the first slot leaves a fraction, the others add to it (`runSlots_timerAcc`), and the slots' timer times sum up to
`TIMER_HZ * delta`. -/
theorem timerTimeConserved : Obligations.TimerTimeConserved := by
  unfold Obligations.TimerTimeConserved
  intro s t ips speed timerHz delta hacc htime hcount _ hrun hf
  rw [stepBlockWith_eq_runSlots, State.slotCount_eq] at hrun
  obtain ⟨n, hn⟩ := Nat.exists_eq_add_of_le' hcount
  rw [hn] at hrun
  have htdpi : 0 ≤ tdpiOf timerHz delta (n + 1) := div_nonneg htime (Nat.cast_nonneg _)
  obtain ⟨u, hu, hrun⟩ := runSlots_succ_of_no_fault hrun hf
  have hsum : tdpiOf timerHz delta (n + 1) + n * tdpiOf timerHz delta (n + 1) = timerHz * delta := by
    rw [tdpiOf]
    field_simp
    push_cast
    ring
  rw [runSlots_timerAcc htdpi n (slot_timerAcc_eq_fract hu hacc htdpi) hrun hf, State.takeBudget_timerAcc, add_assoc, hsum]

end Sys2Proof.Machine
end

section
/-! Who writes the keys, and what a whole `step` leaves alone (41_vm_step R153, 10_state R29, 00_scope R8). -/

namespace Sys2Proof.Machine

variable {s t : State}

/-- A whole slot loop leaves the keys, the other units and the call alone. -/
theorem runSlots_untouched {q : Rat} {n : Nat} (h : runSlots q n s = .next t) :
    t.keys = s.keys ∧ t.sched = s.sched ∧ t.sink = s.sink ∧ t.call = s.call := by
  induction n generalizing s with
  | zero => cases h; exact ⟨rfl, rfl, rfl, rfl⟩
  | succ n ih =>
    cases hf : s.fault.isSome with
    | true =>
      rw [runSlots_of_fault q _ s hf] at h
      cases h
      exact ⟨rfl, rfl, rfl, rfl⟩
    | false =>
      rw [runSlots_succ q n s hf] at h
      obtain ⟨u, hu, h⟩ := andThen_eq_next.1 h
      obtain ⟨hcall, -, hsched, hsink⟩ := slot_untouched q s u hu
      rw [← (slot_keys hu).1, ← hsched, ← hsink, ← hcall]
      exact ih h

theorem stepBlockWith_untouched {ips speed timerHz delta : Rat} (h : stepBlockWith ips speed timerHz delta s = .next t) :
    t.keys = s.keys ∧ t.sched = s.sched ∧ t.sink = s.sink ∧ t.call = s.call := by
  rw [stepBlockWith_eq_runSlots] at h
  exact runSlots_untouched (s := s.takeBudget ips speed delta) h

/-- No step of the machine moves a key (R29). -/
theorem step_keys (h : step s = .next t) : t.keys = s.keys := by
  rcases step_cases s t h with ⟨-, rfl⟩ | ⟨c, -, -, rfl⟩ | ⟨c, u, -, -, hu, rfl⟩
  · rw [State.beginCall, State.beginCallWith_frame]
  · rfl
  · rw [State.countSlot_frame]
    exact (slot_keys hu).1

/-- Only `create` and `set_keys` move a key (R29, R33, R153). -/
theorem perform_keys {op : DriverOp} (hcreate : ∀ rom, op ≠ .create rom) (hset : ∀ k, op ≠ .setKeys k)
    (h : perform op s = .next t) : t.keys = s.keys := by
  cases op with
  | create rom => exact absurd rfl (hcreate rom)
  | setKeys k => exact absurd rfl (hset k)
  | step delta => exact (stepBlockWith_untouched (whenIdle_eq_next.1 h).2).1
  | registerSnapFrequency hz =>
    obtain ⟨-, h⟩ := whenIdle_eq_next.1 h
    obtain ⟨c, -, h⟩ := andThen_eq_next.1 h
    cases h; rfl
  | advance sample =>
    obtain ⟨r, hr, h⟩ := andThen_eq_next.1 h
    obtain ⟨-, hr⟩ := whenIdle_eq_next.1 hr
    obtain ⟨c, -, hr⟩ := andThen_eq_next.1 hr
    cases hr; cases h; rfl
  | resync | setResolution w h' | setPixel x y colour | clear colour =>
    obtain ⟨-, h⟩ := whenIdle_eq_next.1 h
    cases h; rfl
  | render =>
    obtain ⟨-, h⟩ := whenIdle_eq_next.1 h
    obtain ⟨k, -, h⟩ := andThen_eq_next.1 h
    cases h; rfl

theorem create_keys {rom : List Byte} (h : create rom s = .next t) : t.keys = Vector.replicate 16 false := by
  obtain ⟨-, h⟩ := whenIdle_eq_next.1 h
  split at h <;> cases h
  rfl

/-- Settles O21, clause by clause: `set_keys` by its definition, then `create_keys`, `perform_keys`, `step_keys` and
`stepBlockWith_untouched`. -/
theorem keysComeFromSetKeys : Obligations.KeysComeFromSetKeys := by
  unfold Obligations.KeysComeFromSetKeys
  refine ⟨fun s k hc => whenIdle_of_idle s _ hc, fun s t rom h k => ?_, fun op s t => perform_keys, fun s t => step_keys,
    fun s t ips speed timerHz delta => stepBlockWith_untouched⟩
  rw [create_keys h, Fin.getElem_fin, Vector.getElem_replicate]

end Sys2Proof.Machine
end

section
/-! Control transfer: the target of a jump, and where a skip leaves `PC` (42_flow R172, R174 to R179). -/

namespace Sys2Proof.Machine

@[simp] theorem addrWord_toNat (nnn : BitVec 12) : (addrWord nnn).toNat = nnn.toNat :=
  BitVec.toNat_setWidth_of_le (by decide)

@[simp] theorem byteWord_toNat (b : Byte) : (byteWord b).toNat = b.toNat :=
  BitVec.toNat_setWidth_of_le (by decide)

/-- The indexed target is the exact sum: a 12-bit and an 8-bit number never reach `2^16` (R174). -/
theorem toNat_addrWord_add_byteWord (nnn : BitVec 12) (b : Byte) : (addrWord nnn + byteWord b).toNat = nnn.toNat + b.toNat := by
  rw [BitVec.toNat_add, addrWord_toNat, byteWord_toNat]
  omega

/-- Settles O25: each jump is one `setPc`, of `addrWord_toNat` and of `toNat_addrWord_add_byteWord`. -/
theorem jumpsSetPc : Obligations.JumpsSetPc := by
  unfold Obligations.JumpsSetPc
  exact fun s nnn =>
    ⟨⟨_, rfl, addrWord_toNat nnn, rfl⟩, ⟨_, rfl, toNat_addrWord_add_byteWord nnn (s.reg 0), rfl⟩⟩

/-! Skips (R175). -/

theorem State.toNat_pc_skipIf (s : State) (c : Bool) :
    (s.skipIf c).pc.toNat = (if c then s.pc.toNat + 2 else s.pc.toNat) % 65536 := by
  cases c with
  | true => exact BitVec.toNat_add s.pc 2#16
  | false => exact (Nat.mod_eq_of_lt s.pc.isLt).symm

theorem State.toNat_pc_skipIf_beq (s : State) (a b : Byte) :
    (s.skipIf (a == b)).pc.toNat = (if a = b then s.pc.toNat + 2 else s.pc.toNat) % 65536 := by
  simp only [State.toNat_pc_skipIf, beq_iff_eq]

theorem State.toNat_pc_skipIf_bne (s : State) (a b : Byte) :
    (s.skipIf (a != b)).pc.toNat = (if a = b then s.pc.toNat else s.pc.toNat + 2) % 65536 := by
  simp only [State.toNat_pc_skipIf, bne_iff_ne, ite_not]

/-- Settles O26: the words are the instructions' encodings (`decodeWord_encode`), and both are skips on a comparison
(`State.toNat_pc_skipIf_beq`, `State.toNat_pc_skipIf_bne`). -/
theorem skipsAgainstImmediate : Obligations.SkipsAgainstImmediate := by
  unfold Obligations.SkipsAgainstImmediate
  exact fun s x kk =>
    ⟨⟨decodeWord_encode (.seImm x kk), _, rfl, s.toNat_pc_skipIf_beq _ _, s.skipIf_frame _⟩,
      ⟨decodeWord_encode (.sneImm x kk), _, rfl, s.toNat_pc_skipIf_bne _ _, s.skipIf_frame _⟩⟩

/-- Settles O27: the same two comparisons, between registers. -/
theorem skipsBetweenRegisters : Obligations.SkipsBetweenRegisters := by
  unfold Obligations.SkipsBetweenRegisters
  exact fun s x y =>
    ⟨⟨_, rfl, s.toNat_pc_skipIf_beq _ _, s.skipIf_frame _⟩, ⟨_, rfl, s.toNat_pc_skipIf_bne _ _, s.skipIf_frame _⟩⟩

end Sys2Proof.Machine
end

section
/-! The return stack: what `2nnn` pushes and `00EE` pops (42_flow R171, R173; D7, D8). -/

namespace Sys2Proof.Machine

variable {s t : State} {nnn : BitVec 12}

/-! The branches of `00EE`. -/

theorem exec_ret_of_entry {k : Fin 16} (h : s.sp.val = k.val + 1) : exec .ret s = .next (s.dropTop.setPc s.stack[k]) := by
  have hpos : 0 < s.sp.val := by omega
  have htop : s.top hpos = s.stack[k] := by simp [State.top, h]
  rw [← htop]
  exact dif_pos hpos

theorem exec_ret_of_empty (h : s.sp.val = 0) : exec .ret s = .next (s.raise .stackUnderflow) :=
  dif_neg (by omega)

/-! The branches of `2nnn`, the stack check first (D8). -/

theorem exec_call_of_full (h : s.sp.val = 16) : exec (.call nnn) s = .next (s.raise .stackOverflow) :=
  dif_neg (by omega)

theorem exec_call_of_illegal_target (h : s.sp.val < 16) (hillegal : ¬ fetchLegal nnn.toNat = true) :
    exec (.call nnn) s = .next (s.raise .memoryOutOfBounds) :=
  (dif_pos h).trans (if_neg hillegal)

theorem exec_call_of_legal_target (h : s.sp.val < 16) (hlegal : fetchLegal nnn.toNat = true) :
    exec (.call nnn) s = .next ((s.push s.pc h).setPc (addrWord nnn)) :=
  (dif_pos h).trans (if_pos hlegal)

/-- With room on the stack, a call that raised no fault pushed and jumped. -/
theorem eq_push_setPc_of_exec_call (h : s.sp.val < 16) (hcall : exec (.call nnn) s = .next t) (hf : t.fault = none) :
    t = (s.push s.pc h).setPc (addrWord nnn) := by
  by_cases hlegal : fetchLegal nnn.toNat = true
  · rw [exec_call_of_legal_target h hlegal] at hcall
    cases hcall
    rfl
  · rw [exec_call_of_illegal_target h hlegal] at hcall
    cases hcall
    cases hf

/-- The stack after a push, entry by entry (R173). -/
theorem State.getElem_stack_push (w : Word) (h : s.sp.val < 16) (j : Fin 16) :
    (s.push w h).stack[j] = if s.sp.val = j.val then w else s.stack[j] := by
  rw [State.push_stack, Fin.getElem_fin, Vector.getElem_set, Fin.getElem_fin]

/-- Settles O22 (`exec_ret_of_entry`, `exec_ret_of_empty`). -/
theorem returnPopsOrUnderflows : Obligations.ReturnPopsOrUnderflows := by
  unfold Obligations.ReturnPopsOrUnderflows
  refine fun s => ⟨fun k h => ⟨_, exec_ret_of_entry h, ?_, rfl, rfl⟩, fun h => ⟨_, exec_ret_of_empty h, rfl⟩⟩
  exact Nat.sub_eq_of_eq_add h

/-- Settles O23, branch by branch of `2nnn`; the entries are `State.getElem_stack_push`'s, and a legal target is
`fetchLegal_iff`'s. -/
theorem callPushesOrFaults : Obligations.CallPushesOrFaults := by
  unfold Obligations.CallPushesOrFaults
  refine fun s nnn => ⟨fun k hsp htarget => ?pushes, fun hfull => ⟨_, exec_call_of_full hfull, rfl⟩, fun hroom htarget =>
    ⟨_, exec_call_of_illegal_target hroom (mt (fetchLegal_iff _).1 htarget), rfl⟩⟩
  have hroom : s.sp.val < 16 := hsp ▸ k.isLt
  refine ⟨_, exec_call_of_legal_target hroom ((fetchLegal_iff _).2 htarget), ?entry, fun j hj => ?others,
    congrArg (· + 1) hsp, addrWord_toNat nnn, rfl⟩
  case entry => exact (State.getElem_stack_push s.pc hroom k).trans (if_pos hsp)
  case others => exact (State.getElem_stack_push s.pc hroom j).trans (if_neg fun h => hj (Fin.ext (h.symm.trans hsp)))

/-- Settles O24: the call pushed `s.pc` at entry `s.sp` (`eq_push_setPc_of_exec_call`), and that is the entry the return pops
(`exec_ret_of_entry`). -/
theorem returnResumesAfterCall : Obligations.ReturnResumesAfterCall := by
  unfold Obligations.ReturnResumesAfterCall
  intro s t u nnn hroom hcall hf hstack hsp
  obtain rfl := eq_push_setPc_of_exec_call hroom hcall hf
  obtain ⟨k, hk⟩ : ∃ k : Fin 16, s.sp.val = k.val := ⟨⟨s.sp.val, hroom⟩, rfl⟩
  have husp : u.sp.val = k.val + 1 := (congrArg Fin.val hsp).trans (congrArg (· + 1) hk)
  have hentry : u.stack[k] = s.pc := by
    rw [hstack]
    exact (State.getElem_stack_push s.pc hroom k).trans (if_pos hk)
  exact ⟨_, exec_ret_of_entry husp, hentry, Fin.ext ((Nat.sub_eq_of_eq_add husp).trans hk.symm), rfl⟩

end Sys2Proof.Machine
end

section
/-! Registers and ALU: one register written, or a result and then its flag (43_alu R190, R191; D13). -/

namespace Sys2Proof.Machine

/-! The two shapes of a register write. -/

section Writes

variable (s : State) {x r : RegNum}

theorem State.reg_setReg_of_ne (b : Byte) (h : r ≠ x) : (s.setReg x b).reg r = s.reg r :=
  (s.reg_setReg x r b).trans (if_neg h)

/-- Writing back what a register holds changes nothing (R194 with `x = y`). -/
theorem State.setReg_reg_self (x : RegNum) : s.setReg x (s.reg x) = s := by
  simp only [State.setReg, State.reg, Vector.set_getElem_self]

/-- What a result with a flag leaves: the result as a number wherever the flag does not cover it, the flag in VF whatever the
destination, and every other register and the rest of the state as they were (R191, D13). -/
theorem State.setRegFlag_spec {b f : Byte} {n : Nat} {Flag : Byte → Prop} (hresult : b.toNat = n) (hflag : Flag f) :
    (x ≠ 15 → ((s.setRegFlag x b f).reg x).toNat = n) ∧ Flag ((s.setRegFlag x b f).reg 15) ∧
      (∀ r, r ≠ x → r ≠ 15 → (s.setRegFlag x b f).reg r = s.reg r) ∧ ChangesOnlyV s (s.setRegFlag x b f) := by
  simp only [State.reg_setRegFlag, if_true]
  refine ⟨fun hx => ?result, ?flag, fun r hr hvf => ?others, s.setRegFlag_frame x b f⟩
  case result => rwa [if_neg hx]
  case flag => exact hflag
  case others => rw [if_neg hvf, if_neg hr]

end Writes

/-! The flags (R23), as the rules write them. -/

section Bytes

variable (a b : Byte)

theorem carryFlag_eq : carryFlag a b = if 255 < a.toNat + b.toNat then 1 else 0 := by
  simp only [carryFlag, flagByte_eq, gt_iff_lt, decide_eq_true_eq]

theorem notBorrowFlag_eq : notBorrowFlag a b = if b.toNat ≤ a.toNat then 1 else 0 := by
  simp only [notBorrowFlag, flagByte_eq, ge_iff_le, decide_eq_true_eq]

theorem flagByte_toNat (c : Bool) : (flagByte c).toNat = c.toNat := by
  cases c <;> rfl

theorem shiftedOutLow_toNat : (shiftedOutLow b).toNat = b.toNat % 2 := by
  rw [shiftedOutLow, flagByte_toNat, BitVec.getLsbD, Nat.toNat_testBit, Nat.pow_zero, Nat.div_one]

/-- Bit 7 is the top bit of a byte, so nothing is left to reduce. -/
theorem shiftedOutHigh_toNat : (shiftedOutHigh b).toNat = b.toNat / 128 := by
  have hb := b.isLt
  rw [shiftedOutHigh, flagByte_toNat, BitVec.getLsbD, Nat.toNat_testBit]
  omega

/-! The results, as numbers. -/

theorem toNat_sub_byte : (a - b).toNat = (a.toNat + 256 - b.toNat) % 256 := by
  have hb := b.isLt
  rw [BitVec.toNat_sub]
  omega

theorem toNat_shiftRight_one : (b >>> 1).toNat = b.toNat / 2 := by
  rw [BitVec.toNat_ushiftRight, Nat.shiftRight_one]

theorem toNat_shiftLeft_one : (b <<< 1).toNat = b.toNat * 2 % 256 := by
  rw [BitVec.toNat_shiftLeft, Nat.shiftLeft_eq, Nat.pow_one]

end Bytes

/-- Settles O28: each of the three is one `setReg`, and the words are the instructions' encodings (`decodeWord_encode`). -/
theorem loadAddMove : Obligations.LoadAddMove := by
  unfold Obligations.LoadAddMove
  intro s x y kk
  refine ⟨⟨decodeWord_encode (.ldImm x kk), _, rfl, fun r => s.reg_setReg x r kk, rfl⟩,
    ⟨decodeWord_encode (.addImm x kk), _, rfl, ?sum, fun r => s.reg_setReg_of_ne _, rfl⟩,
    ⟨decodeWord_encode (.ldReg x y), _, rfl, fun r => s.reg_setReg x r _, rfl, ?self⟩⟩
  case sum =>
    rw [State.reg_setReg_same]
    exact BitVec.toNat_add (s.reg x) kk
  case self =>
    rintro rfl
    exact s.setReg_reg_self x

/-- Settles O29: each of the three is one `setReg`, of a value whose bits `BitVec.getLsbD_or`, `_and` and `_xor` give. -/
theorem logicBitByBit : Obligations.LogicBitByBit := by
  unfold Obligations.LogicBitByBit
  refine fun s x y => ⟨⟨_, rfl, fun b _ => ?or, fun r => s.reg_setReg_of_ne _, rfl⟩,
    ⟨_, rfl, fun b _ => ?and, fun r => s.reg_setReg_of_ne _, rfl⟩,
    ⟨_, rfl, fun b _ => ?xor, fun r => s.reg_setReg_of_ne _, rfl⟩⟩
  case or => rw [State.reg_setReg_same, BitVec.getLsbD_or]
  case and => rw [State.reg_setReg_same, BitVec.getLsbD_and]
  case xor => rw [State.reg_setReg_same, BitVec.getLsbD_xor]

/-- Settles O30: one result with a flag (`State.setRegFlag_spec`), of the sum and of `carryFlag_eq`. -/
theorem addWithCarry : Obligations.AddWithCarry := by
  unfold Obligations.AddWithCarry
  exact fun s x y => ⟨_, rfl, s.setRegFlag_spec (Flag := (· = _)) (BitVec.toNat_add _ _) (carryFlag_eq _ _)⟩

/-- Settles O31: the same with `toNat_sub_byte` and `notBorrowFlag_eq`, the operands in either order. -/
theorem subtractWithNotBorrow : Obligations.SubtractWithNotBorrow := by
  unfold Obligations.SubtractWithNotBorrow
  exact fun s x y =>
    ⟨⟨_, rfl, s.setRegFlag_spec (Flag := (· = _)) (toNat_sub_byte _ _) (notBorrowFlag_eq _ _)⟩,
      ⟨_, rfl, s.setRegFlag_spec (Flag := (· = _)) (toNat_sub_byte _ _) (notBorrowFlag_eq _ _)⟩⟩

/-- Settles O32: the register the parameter selects stays a variable, so that no value of the parameter is chosen; the flag is the bit
shifted out, as a number (`shiftedOutLow_toNat`, `shiftedOutHigh_toNat`). -/
theorem shiftByOne : Obligations.ShiftByOne := by
  unfold Obligations.ShiftByOne
  intro s x y src hsrc
  have hsource : shiftSource shiftReadsVy x y = src := hsrc.symm
  have hshr : exec (.shr x y) s = .next (s.setRegFlag x (s.reg src >>> 1) (shiftedOutLow (s.reg src))) := by
    rw [← hsource]; rfl
  have hshl : exec (.shl x y) s = .next (s.setRegFlag x (s.reg src <<< 1) (shiftedOutHigh (s.reg src))) := by
    rw [← hsource]; rfl
  exact ⟨⟨_, hshr, s.setRegFlag_spec (Flag := (·.toNat = _)) (toNat_shiftRight_one _) (shiftedOutLow_toNat _)⟩,
    ⟨_, hshl, s.setRegFlag_spec (Flag := (·.toNat = _)) (toNat_shiftLeft_one _) (shiftedOutHigh_toNat _)⟩⟩

/-- Settles O33: the draw is counted first and then one register written, with the byte of the count before it; the AND with `kk` is
what bounds it. -/
theorem randomIsMasked : Obligations.RandomIsMasked := by
  unfold Obligations.RandomIsMasked
  intro s x kk
  refine ⟨_, rfl, s.countDraw.reg_setReg_same x _, rfl, ?bound, fun r => s.countDraw.reg_setReg_of_ne _, rfl⟩
  rw [State.reg_setReg_same, BitVec.toNat_and]
  exact Nat.and_le_right

end Sys2Proof.Machine
end

section
/-! Index register and data memory: a store or a load of a range at `I`, checked before its first access (44_index_memory R210 to
R217; D18, D19). -/

namespace Sys2Proof.Machine

/-- Settles O34: one `setI`, of `addrWord_toNat`; the word is the instruction's encoding (`decodeWord_encode`). -/
theorem loadIndex : Obligations.LoadIndex := by
  unfold Obligations.LoadIndex
  intro s nnn
  have hi : (s.setI (addrWord nnn)).i.toNat = nnn.toNat := addrWord_toNat nnn
  exact ⟨decodeWord_encode (.ldI nnn), _, rfl, hi, hi.trans_lt nnn.isLt, rfl⟩

/-- A glyph's address is below 76, so 16 bits hold it without wrap-around (R213). -/
theorem glyphAddr_toNat (b : Byte) : (glyphAddr b).toNat = 5 * (b.toNat % 16) := by
  rw [glyphAddr, BitVec.toNat_ofNat]
  omega

theorem toNat_add_byteWord (w : Word) (b : Byte) : (w + byteWord b).toNat = (w.toNat + b.toNat) % 65536 := by
  rw [BitVec.toNat_add, byteWord_toNat]

/-- Settles O35: each is one `setI`, of `toNat_add_byteWord` and of `glyphAddr_toNat`. -/
theorem indexSumAndGlyph : Obligations.IndexSumAndGlyph := by
  unfold Obligations.IndexSumAndGlyph
  intro s x
  have hglyph : (s.setI (glyphAddr (s.reg x))).i.toNat = 5 * ((s.reg x).toNat % 16) := glyphAddr_toNat (s.reg x)
  exact ⟨⟨_, rfl, toNat_add_byteWord s.i (s.reg x), rfl⟩, ⟨_, rfl, hglyph, by omega, rfl⟩⟩

/-! What a store of bytes leaves in memory, inside and outside its range. -/

section Ranges

variable (m : Memory) (a : Nat) (bs : List Byte)

theorem Memory.readByte_writeBytes_add {j : Nat} (h : j < bs.length) : (m.writeBytes a bs).readByte (a + j) = bs[j] := by
  rw [Memory.readByte_writeBytes, dif_pos (by omega)]
  congr 1; omega

theorem Memory.readByte_writeBytes_outside {a' : Nat} (h : a' < a ∨ a + bs.length ≤ a') :
    (m.writeBytes a bs).readByte a' = m.readByte a' := by
  rw [Memory.readByte_writeBytes, dif_neg (by omega)]

/-- A stored register range holds each of its registers (R215). -/
theorem readByte_writeBytes_regRange (s : State) {x j : RegNum} (h : j ≤ x) :
    (m.writeBytes a (s.regRange x)).readByte (a + j.toNat) = s.reg j := by
  have hj : j.toNat < (s.regRange x).length := by
    rw [State.length_regRange]
    exact Nat.lt_succ_of_le h
  rw [Memory.readByte_writeBytes_add _ _ _ hj, State.getElem_regRange, BitVec.ofNat_toNat, BitVec.setWidth_eq]

end Ranges

/-! The two answers of a checked store at `I` (D18). -/

section Stores

variable {s t : State} {bs : List Byte} {x : RegNum}

theorem storeAtI_of_writable (hlow : 512 ≤ s.i.toNat) (hhigh : s.i.toNat + bs.length ≤ 4096) :
    storeAtI bs s = s.setMem (s.mem.writeBytes s.i.toNat bs) :=
  if_pos ((writeLegal_iff _ _).2 (.inr ⟨hlow, hhigh⟩))

theorem storeAtI_of_not_writable (hne : bs.length ≠ 0) (h : s.i.toNat < 512 ∨ 4096 < s.i.toNat + bs.length) :
    storeAtI bs s = s.raise .memoryOutOfBounds :=
  if_neg fun hlegal => by
    have := (writeLegal_iff s.i.toNat bs.length).1 hlegal
    omega

theorem exec_ldB_of_writable (hlow : 512 ≤ s.i.toNat) (hhigh : s.i.toNat ≤ 4093) :
    exec (.ldB x) s = .next (s.setMem (s.mem.writeBytes s.i.toNat (decimalDigits (s.reg x)))) :=
  congrArg Host.Outcome.next (storeAtI_of_writable hlow (Nat.add_le_add_right hhigh 3))

theorem exec_ldB_of_not_writable (h : s.i.toNat < 512 ∨ 4093 < s.i.toNat) :
    exec (.ldB x) s = .next (s.raise .memoryOutOfBounds) :=
  congrArg Host.Outcome.next (storeAtI_of_not_writable (by simp [decimalDigits])
    (h.imp_right fun hhigh => Nat.add_lt_add_right hhigh 3))

theorem exec_storeRegs_of_writable (hlow : 512 ≤ s.i.toNat) (hhigh : s.i.toNat + x.toNat ≤ 4095) :
    exec (.storeRegs x) s = .next (s.setMem (s.mem.writeBytes s.i.toNat (s.regRange x))) :=
  congrArg Host.Outcome.next (storeAtI_of_writable hlow (by rw [State.length_regRange, rangeCount]; omega))

theorem exec_storeRegs_of_not_writable (h : s.i.toNat < 512 ∨ 4095 < s.i.toNat + x.toNat) :
    exec (.storeRegs x) s = .next (s.raise .memoryOutOfBounds) :=
  congrArg Host.Outcome.next (storeAtI_of_not_writable (by simp [State.length_regRange, rangeCount])
    (by rw [State.length_regRange, rangeCount]; omega))

/-- A register store that leaves no fault found its range writable and wrote it, and nothing else. -/
theorem writable_and_eq_of_exec_storeRegs (h : exec (.storeRegs x) s = .next t) (hf : t.fault = none) :
    (512 ≤ s.i.toNat ∧ s.i.toNat + x.toNat ≤ 4095) ∧ t = s.setMem (s.mem.writeBytes s.i.toNat (s.regRange x)) := by
  by_cases hw : 512 ≤ s.i.toNat ∧ s.i.toNat + x.toNat ≤ 4095
  · rw [exec_storeRegs_of_writable hw.1 hw.2] at h
    cases h
    exact ⟨hw, rfl⟩
  · rw [exec_storeRegs_of_not_writable (by omega)] at h
    cases h
    cases hf

end Stores

/-! The two answers of `Fx65` (D18), and the registers it leaves. -/

section Loads

variable {s : State} {x : RegNum}

theorem readLegal_rangeCount_iff (a : Nat) (x : RegNum) :
    readLegal a (rangeCount x) = true ↔ ∀ j ≤ x.toNat, a + j < 80 ∨ (512 ≤ a + j ∧ a + j < 4096) := by
  simp only [readLegal_iff, inRegion_iff, rangeCount, Nat.lt_succ_iff]

theorem exec_loadRegs_of_readable (h : ∀ j ≤ x.toNat, s.i.toNat + j < 80 ∨ (512 ≤ s.i.toNat + j ∧ s.i.toNat + j < 4096)) :
    exec (.loadRegs x) s = .next (s.loadRange s.i.toNat (rangeCount x)) :=
  if_pos ((readLegal_rangeCount_iff _ x).2 h)

theorem exec_loadRegs_of_not_readable
    (h : ∃ j ≤ x.toNat, ¬ (s.i.toNat + j < 80 ∨ (512 ≤ s.i.toNat + j ∧ s.i.toNat + j < 4096))) :
    exec (.loadRegs x) s = .next (s.raise .memoryOutOfBounds) :=
  if_neg fun hlegal => by
    obtain ⟨j, hj, houtside⟩ := h
    exact houtside ((readLegal_rangeCount_iff _ x).1 hlegal j hj)

theorem State.reg_loadRange_rangeCount (s : State) (a : Nat) (x j : RegNum) :
    (s.loadRange a (rangeCount x)).reg j = if j ≤ x then s.mem.readByte (a + j.toNat) else s.reg j :=
  (s.reg_loadRange a (rangeCount x) j x.isLt).trans (if_congr Nat.lt_succ_iff rfl rfl)

end Loads

/-- Settles O36, answer by answer of the store: of its three bytes each holds its digit, and a digit of a byte is itself a byte. -/
theorem storeDecimalDigits : Obligations.StoreDecimalDigits := by
  unfold Obligations.StoreDecimalDigits
  intro s x
  have hbyte := (s.reg x).isLt
  have digit (j : Nat) (hj : j < 3) : (s.mem.writeBytes s.i.toNat (decimalDigits (s.reg x))).readByte (s.i.toNat + j) =
      (decimalDigits (s.reg x))[j] := Memory.readByte_writeBytes_add _ _ _ hj
  refine ⟨fun hlow hhigh => ⟨_, exec_ldB_of_writable hlow hhigh, ?hundreds, ?tens, ?ones,
    fun a => Memory.readByte_writeBytes_outside s.mem _ (decimalDigits (s.reg x)), rfl⟩,
    fun h => ⟨_, exec_ldB_of_not_writable h, rfl⟩⟩
  case hundreds => exact (congrArg BitVec.toNat (digit 0 (by decide))).trans (Nat.mod_eq_of_lt (by omega))
  case tens => exact (congrArg BitVec.toNat (digit 1 (by decide))).trans (Nat.mod_eq_of_lt (by omega))
  case ones => exact (congrArg BitVec.toNat (digit 2 (by decide))).trans (Nat.mod_eq_of_lt (by omega))

/-- Settles O37, answer by answer of the store; inside the range memory holds the registers (`readByte_writeBytes_regRange`). -/
theorem storeRegisterRange : Obligations.StoreRegisterRange := by
  unfold Obligations.StoreRegisterRange
  refine fun s x => ⟨fun hlow hhigh => ⟨_, exec_storeRegs_of_writable hlow hhigh,
    fun j => readByte_writeBytes_regRange _ _ s, fun a ha => ?outside, rfl⟩,
    fun h => ⟨_, exec_storeRegs_of_not_writable h, rfl⟩⟩
  case outside =>
    refine Memory.readByte_writeBytes_outside _ _ _ ?_
    rw [State.length_regRange, rangeCount]
    omega

/-- Settles O38, answer by answer of the load. -/
theorem loadRegisterRange : Obligations.LoadRegisterRange := by
  unfold Obligations.LoadRegisterRange
  exact fun s x => ⟨fun h => ⟨_, exec_loadRegs_of_readable h, s.reg_loadRange_rangeCount _ x, s.loadRange_frame _ _⟩,
    fun h => ⟨_, exec_loadRegs_of_not_readable h, rfl⟩⟩

/-- Settles O39: a writable range is readable, and what the store left in it are the registers (`readByte_writeBytes_regRange`). -/
theorem storeThenLoadRestores : Obligations.StoreThenLoadRestores := by
  unfold Obligations.StoreThenLoadRestores
  intro s t u x h hf hmem hi
  obtain ⟨⟨hlow, hhigh⟩, rfl⟩ := writable_and_eq_of_exec_storeRegs h hf
  have hi : u.i = s.i := hi
  refine ⟨_, exec_loadRegs_of_readable fun j hj => .inr ?readable, ?fault, fun j => ?restored⟩
  case readable =>
    rw [hi]
    omega
  case fault => rw [State.loadRange_frame]
  case restored =>
    rw [State.reg_loadRange_rangeCount, hmem, hi]
    exact if_ctx_congr Iff.rfl (readByte_writeBytes_regRange _ _ s) fun _ => rfl

end Sys2Proof.Machine
end

section
/-! Display: what `00E0` and `Dxyn` do to the bitmap, pixel by pixel (45_display R231 to R238; D17). -/

namespace Sys2Proof.Machine

theorem pixelOf_of_blank {scr : Vector Byte 256} (h : ∀ k : Fin 256, scr[k] = 0) (px py : Nat) : pixelOf scr px py = false := by
  rw [pixelOf, h, BitVec.ofNat_eq_ofNat, BitVec.getLsbD_zero]

/-- Settles O41: one `setScreen`, of a bitmap whose every byte is 0. -/
theorem clearScreen : Obligations.ClearScreen := by
  unfold Obligations.ClearScreen
  have hblank (k : Fin 256) : blankScreen[k] = 0 := Vector.getElem_replicate k.isLt
  exact fun s => ⟨_, rfl, fun px _ py _ => pixelOf_of_blank hblank px py, rfl⟩

/-! The three answers of `Dxyn`, the coordinate check first (R234, D17). -/

section Draws

variable {s u : State} {x y : RegNum} {n : BitVec 4}

/-- The row count never fails the check: four bits hold no number above 32 (C7). -/
theorem coordinatesInvalid_iff (vx vy : Byte) (n : BitVec 4) :
    coordinatesInvalid vx vy n = true ↔ 64 ≤ vx.toNat ∨ 32 ≤ vy.toNat := by
  have hn : ¬ 32 < n.toNat := by omega
  simp only [coordinatesInvalid, Bool.or_eq_true, decide_eq_true_eq, ge_iff_le, gt_iff_lt, hn, or_false]

theorem exec_drw_of_off_screen (h : 64 ≤ (s.reg x).toNat ∨ 32 ≤ (s.reg y).toNat) :
    exec (.drw x y n) s = .next (s.raise .invalidDrawCoordinates) :=
  if_pos ((coordinatesInvalid_iff _ _ n).2 h)

theorem exec_drw_of_not_readable (hx : (s.reg x).toNat < 64) (hy : (s.reg y).toNat < 32)
    (h : ¬ readLegal s.i.toNat n.toNat = true) : exec (.drw x y n) s = .next (s.raise .memoryOutOfBounds) :=
  (if_neg (mt (coordinatesInvalid_iff _ _ n).1 (by omega))).trans (if_neg h)

theorem exec_drw_of_readable (hx : (s.reg x).toNat < 64) (hy : (s.reg y).toNat < 32)
    (h : readLegal s.i.toNat n.toNat = true) :
    exec (.drw x y n) s = .next ((s.setScreen (s.drawn x y n).1).setReg 15 (flagByte (s.drawn x y n).2)) :=
  (if_neg (mt (coordinatesInvalid_iff _ _ n).1 (by omega))).trans (if_pos h)

/-! The sprite at `I` over the screen. -/

theorem State.length_spriteBytes_le (s : State) (n : BitVec 4) : (s.spriteBytes n).length ≤ 32 := by
  rw [State.spriteBytes, Memory.length_readBytes]
  omega

/-- The drawn sprite lies on pixel (px, py) with a 1 bit, in the spec's words (R235). -/
theorem blitHit_spriteBytes_iff {vx px : Nat} (hv : vx < 64) (hp : px < 64) (s : State) (n : BitVec 4) (vy py : Nat) :
    blitHit vx vy (s.spriteBytes n) px py = true ↔
      ∃ r < n.toNat, ∃ k < 8, (s.mem.readByte (s.i.toNat + r)).getLsbD (7 - k) = true ∧
        px = (vx + k) % 64 ∧ py = (vy + r) % 32 := by
  rw [blitHit_iff _ vx vy px py hv hp (s.length_spriteBytes_le n)]
  simp only [State.spriteBytes, Memory.getElem_readBytes, Memory.length_readBytes, State.dataAddr, exists_prop]

theorem State.drawn_pixel (hx : (s.reg x).toNat < 64) {px py : Nat} (hp : px < 64) (hy : py < 32) :
    pixelOf (s.drawn x y n).1 px py =
      xor (pixelOf s.screen px py) (blitHit (s.reg x).toNat (s.reg y).toNat (s.spriteBytes n) px py) :=
  blit_pixel _ _ _ _ px py hx hp hy

/-- The blit reports a collision exactly when a pixel that was on is off afterwards (R236). -/
theorem State.drawn_collides_iff (hx : (s.reg x).toNat < 64) :
    (s.drawn x y n).2 = true ↔
      ∃ px < 64, ∃ py < 32, pixelOf s.screen px py = true ∧ pixelOf (s.drawn x y n).1 px py = false := by
  rw [State.drawn, blit_collides _ _ _ _ hx (s.length_spriteBytes_le n)]
  refine exists_congr fun px => and_congr_right fun hp => exists_congr fun py => and_congr_right fun hy =>
    and_congr_right fun hon => ?_
  rw [blit_pixel _ _ _ _ px py hx hp hy, hon, Bool.true_xor, Bool.not_eq_false']

theorem State.drawn_collides_of_blank (hx : (s.reg x).toNat < 64) (hblank : ∀ k : Fin 256, s.screen[k] = 0) :
    (s.drawn x y n).2 = false := by
  rw [Bool.eq_false_iff, Ne, State.drawn_collides_iff hx]
  rintro ⟨px, -, py, -, hon, -⟩
  rw [pixelOf_of_blank hblank] at hon
  cases hon

/-- The blit of a state with the same memory, `I` and coordinates inverts the same pixels. -/
theorem State.drawn_eq_blit (hmem : u.mem = s.mem) (hi : u.i = s.i) (hx : u.reg x = s.reg x) (hy : u.reg y = s.reg y) :
    u.drawn x y n = blit u.screen (s.reg x).toNat (s.reg y).toNat (s.spriteBytes n) := by
  rw [State.drawn, hx, hy, State.spriteBytes, State.dataAddr, hmem, hi, State.spriteBytes, State.dataAddr]

theorem exists_getLsbD_of_ne_zero {b : Byte} (h : b ≠ 0) : ∃ k < 8, b.getLsbD (7 - k) = true := by
  have hself : collides b b = true := by
    rw [collides, BitVec.and_self]
    exact bne_iff_ne.2 h
  obtain ⟨k, hk, hbit, -⟩ := (collides_iff b b).1 hself
  exact ⟨k, hk, hbit⟩

/-- A sprite with a set bit turns a pixel of a blank screen on. -/
theorem State.exists_drawn_pixel_of_blank (hx : (s.reg x).toNat < 64) (hblank : ∀ k : Fin 256, s.screen[k] = 0)
    (hsprite : ∃ r < n.toNat, s.mem.readByte (s.i.toNat + r) ≠ 0) :
    ∃ px < 64, ∃ py < 32, pixelOf (s.drawn x y n).1 px py = true := by
  obtain ⟨r, hr, hne⟩ := hsprite
  obtain ⟨k, hk, hbit⟩ := exists_getLsbD_of_ne_zero hne
  have hp : ((s.reg x).toNat + k) % 64 < 64 := Nat.mod_lt _ (by decide)
  have hpy : ((s.reg y).toNat + r) % 32 < 32 := Nat.mod_lt _ (by decide)
  refine ⟨_, hp, _, hpy, ?_⟩
  rw [State.drawn_pixel hx hp hpy, pixelOf_of_blank hblank, Bool.false_xor, blitHit_spriteBytes_iff hx hp]
  exact ⟨r, hr, k, hk, hbit, rfl, rfl⟩

theorem blit_blit (bs : List Byte) (scr : Vector Byte 256) {vx : Nat} (vy : Nat) (hv : vx < 64) :
    (blit (blit scr vx vy bs).1 vx vy bs).1 = scr := by
  refine screen_ext _ _ fun px hp py hy => ?_
  rw [blit_pixel _ _ _ _ px py hv hp hy, blit_pixel _ _ _ _ px py hv hp hy, Bool.xor_assoc, Bool.xor_self, Bool.xor_false]

end Draws

theorem flagByte_eq_zero_or_one (c : Bool) : flagByte c = 0 ∨ flagByte c = 1 := by
  cases c with
  | false => exact .inl rfl
  | true => exact .inr rfl

theorem flagByte_eq_one_iff (c : Bool) : flagByte c = 1 ↔ c = true := by
  cases c <;> decide

theorem xor_ne_left_iff (a b : Bool) : xor a b ≠ a ↔ b = true := by
  cases a <;> simp

/-- Settles O42: a pixel changes exactly when the sprite hits it (`State.drawn_pixel`, `blitHit_spriteBytes_iff`). -/
theorem drawInvertsPixels : Obligations.DrawInvertsPixels := by
  unfold Obligations.DrawInvertsPixels
  intro s x y n hx hy h
  refine ⟨_, exec_drw_of_readable hx hy h, fun px hp py hpy => ?pixel, fun r => State.reg_setReg_of_ne _ _, rfl⟩
  rw [← blitHit_spriteBytes_iff hx hp, State.setReg_screen, State.setScreen_screen, State.drawn_pixel hx hp hpy,
    xor_ne_left_iff]

/-- Settles O43: VF is the flag of the blit's collision, which is `State.drawn_collides_iff`'s. -/
theorem drawCollisionFlag : Obligations.DrawCollisionFlag := by
  unfold Obligations.DrawCollisionFlag
  intro s x y n hx hy h
  refine ⟨_, exec_drw_of_readable hx hy h, ?_⟩
  rw [State.reg_setReg_same]
  exact ⟨flagByte_eq_zero_or_one _, (flagByte_eq_one_iff _).trans (State.drawn_collides_iff hx)⟩

/-- Settles O44, answer by answer; one byte outside the regions makes the sprite unreadable (`readLegal_iff`). -/
theorem drawFaults : Obligations.DrawFaults := by
  unfold Obligations.DrawFaults
  refine fun s x y n => ⟨fun h => ⟨_, exec_drw_of_off_screen h, rfl⟩, fun hx hy ⟨r, hr, houtside⟩ =>
    ⟨_, exec_drw_of_not_readable hx hy fun hlegal => houtside ?_, rfl⟩⟩
  exact (inRegion_iff _).1 ((readLegal_iff _ _).1 hlegal r hr)

/-- Settles O45: inverting the same pixels twice restores them (`blit_blit`), so on a blank screen what the first draw turned on
(`State.exists_drawn_pixel_of_blank`) the second turns off. -/
theorem drawTwiceRestores : Obligations.DrawTwiceRestores := by
  unfold Obligations.DrawTwiceRestores
  intro s x y n hx hy h
  refine ⟨_, exec_drw_of_readable hx hy h, fun hblank => ?first, fun u hscr hmem hi hux huy => ?second⟩
  case first => rw [State.reg_setReg_same, State.drawn_collides_of_blank hx hblank]; rfl
  case second =>
    have hscr : u.screen = (s.drawn x y n).1 := hscr
    have hrestored : (u.drawn x y n).1 = s.screen := by
      rw [State.drawn_eq_blit hmem hi hux huy, hscr]
      exact blit_blit _ _ _ hx
    refine ⟨_, exec_drw_of_readable (hux ▸ hx) (huy ▸ hy) (hi ▸ h), hrestored, fun hsprite hblank => ?collides⟩
    obtain ⟨px, hp, py, hpy, hon⟩ := State.exists_drawn_pixel_of_blank (y := y) hx hblank hsprite
    have hoff : pixelOf (u.drawn x y n).1 px py = false := by rw [hrestored, pixelOf_of_blank hblank]
    rw [State.reg_setReg_same, flagByte_eq_one_iff, State.drawn_collides_iff (hux ▸ hx)]
    exact ⟨px, hp, py, hpy, hscr ▸ hon, hoff⟩

end Sys2Proof.Machine
end

section
/-! The Sink: what its operations do to its pixels and to its size (45_display R240 to R244; D28 to D30). -/

namespace Sys2Proof.Machine

/-- Settles O58: the fill is a `map` to one colour, and no instruction touches the Sink (`exec_untouched`). -/
theorem clearFillsSink : Obligations.ClearFillsSink := by
  unfold Obligations.ClearFillsSink
  refine ⟨fun s colour hc => ⟨_, whenIdle_of_idle s _ hc, rfl, rfl, rfl, List.length_map _, fun p hp => ?filled,
    fun hempty => ?unchanged⟩, fun s t h => (exec_untouched .cls s t h).sink⟩
  case filled =>
    obtain ⟨_, -, rfl⟩ := List.mem_map.1 hp
    rfl
  case unchanged =>
    have hclear : s.sink.clear colour = s.sink := by
      rw [Sink.clear, hempty, List.map_nil, ← hempty]
    rw [hclear]
    rfl

namespace Sink

theorem setResolution_pixels_of_same_count {k : Sink} {w h : Nat} (draw : Nat) (hsame : w * h = k.width * k.height) :
    (k.setResolution draw w h).pixels = k.pixels :=
  if_pos (by rw [byteSize, Nat.mul_assoc, hsame, Nat.mul_assoc])

theorem setPixel_natCast (k : Sink) (x y : Nat) (colour : Pixel) : k.setPixel x y colour = k.putPixel x y colour :=
  if_pos ⟨Int.natCast_nonneg x, Int.natCast_nonneg y⟩

/-- A write outside the buffer is dropped, wherever it misses (R241, D29). -/
theorem setPixel_of_outside {k : Sink} {x y : Int} (colour : Pixel)
    (h : ¬ (0 ≤ x ∧ x < k.width ∧ 0 ≤ y ∧ y < k.height)) : k.setPixel x y colour = k := by
  unfold setPixel
  split
  · exact if_neg (by omega)
  · rfl

end Sink

/-- Settles O59: the size is the invariant's (`Sink.setResolution_inv`), and a write inside is one `putPixel`, of which
`Sink.putPixel_get` says each pixel. -/
theorem resizeAndSetPixel : Obligations.ResizeAndSetPixel := by
  unfold Obligations.ResizeAndSetPixel
  refine fun s hc hinv => ⟨fun w h => ?resize, fun x y colour hx hy => ?inside, fun x y colour hout => ?outside⟩
  case resize =>
    exact ⟨_, whenIdle_of_idle s _ hc, rfl, rfl, Sink.setResolution_inv hinv _ w h,
      Sink.setResolution_pixels_of_same_count _, rfl⟩
  case inside =>
    refine ⟨_, whenIdle_of_idle s _ hc, rfl, ?_⟩
    rw [Sink.setPixel_natCast, State.setSink_sink]
    refine ⟨Sink.putPixel_width _ _ _ _, Sink.putPixel_height _ _ _ _, fun j => ?_⟩
    simp only [Sink.putPixel_get s.sink x y j colour hinv, hx, hy, true_and]
  case outside =>
    rw [setPixel, whenIdle_of_idle s _ hc, Sink.setPixel_of_outside colour hout]
    rfl

/-! `render_chip8`: every write into a Sink of one size, pixel by pixel (R243). -/

namespace Sink

/-- A legal Sink of `w` by `h` pixels. -/
def HasSize (w h : Nat) (k : Sink) : Prop := k.width = w ∧ k.height = h ∧ k.Inv

variable {w h : Nat} {k : Sink}

theorem HasSize.putPixel (hk : k.HasSize w h) (x y : Nat) (colour : Pixel) : (k.putPixel x y colour).HasSize w h :=
  ⟨(putPixel_width k x y colour).trans hk.1, (putPixel_height k x y colour).trans hk.2.1, hk.2.2.putPixel x y colour⟩

theorem HasSize.renderPixel (hk : k.HasSize w h) (scr : Vector Byte 256) (y x : Nat) : (k.renderPixel scr y x).HasSize w h :=
  hk.putPixel _ _ _

theorem HasSize.renderRow (hk : k.HasSize w h) (scr : Vector Byte 256) (y : Nat) : (k.renderRow scr y).HasSize w h :=
  List.foldlRecOn (motive := HasSize w h) _ _ hk fun _ hk x _ => hk.renderPixel scr y x

theorem HasSize.renderBitmap (hk : k.HasSize w h) (scr : Vector Byte 256) : (k.renderBitmap scr).HasSize w h :=
  List.foldlRecOn (motive := HasSize w h) _ _ hk fun _ hk y _ => hk.renderRow scr y

/-- Writes in sequence, one pixel looked at: when every write that hits it gives it the same colour, it has that colour if any does,
and else keeps its value. -/
theorem HasSize.foldl_get {f : Sink → Nat → Sink} {hit : Nat → Prop} [DecidablePred hit] {j : Nat} {colour : Option Pixel}
    (l : List Nat) (hsize : ∀ k, HasSize w h k → ∀ i ∈ l, HasSize w h (f k i))
    (hget : ∀ k, HasSize w h k → ∀ i ∈ l, (f k i).pixels[j]? = if hit i then colour else k.pixels[j]?)
    (hk : k.HasSize w h) : (l.foldl f k).pixels[j]? = if ∃ i ∈ l, hit i then colour else k.pixels[j]? := by
  induction l generalizing k with
  | nil => simp
  | cons i l ih =>
    rw [List.foldl_cons, ih (fun k hk i hi => hsize k hk i (.tail _ hi)) (fun k hk i hi => hget k hk i (.tail _ hi))
      (hsize k hk i (.head _)), hget k hk i (.head _)]
    by_cases hi : hit i <;> simp [hi]

variable {px py : Nat}

/-- One bitmap pixel, seen from the Sink's pixel (px, py): it is hit from column `px` and the flipped row. -/
theorem HasSize.renderPixel_get (hk : k.HasSize w h) (scr : Vector Byte 256) {x y : Nat} (hpx : px < w) (hpy : py < h) (hy : y < h) :
    (k.renderPixel scr y x).pixels[py * w + px]? =
      if x = px ∧ y = h - 1 - py then some (pixelColour (pixelOf scr px (h - 1 - py))) else k.pixels[py * w + px]? := by
  obtain ⟨rfl, rfl, hinv⟩ := hk
  rw [Sink.renderPixel, putPixel_get _ _ _ _ _ hinv]
  by_cases hhit : x = px ∧ y = k.height - 1 - py
  · obtain ⟨rfl, rfl⟩ := hhit
    have hrow : k.height - 1 - (k.height - 1 - py) = py := by omega
    rw [hrow, if_pos ⟨hpx, hpy, rfl⟩, if_pos ⟨rfl, rfl⟩]
  · rw [if_neg hhit, if_neg]
    rintro ⟨hx, -, hj⟩
    obtain ⟨hcol, hrow⟩ := index_inj _ _ _ _ _ hpx hx hj
    exact hhit ⟨hcol.symm, by omega⟩

theorem HasSize.renderRow_get (hk : k.HasSize w h) (scr : Vector Byte 256) {y : Nat} (hpx : px < w) (hpy : py < h) (hy : y < h) :
    (k.renderRow scr y).pixels[py * w + px]? =
      if px < 64 ∧ y = h - 1 - py then some (pixelColour (pixelOf scr px (h - 1 - py))) else k.pixels[py * w + px]? := by
  rw [Sink.renderRow, HasSize.foldl_get _ (fun _ hk x _ => hk.renderPixel scr y x)
    (fun _ hk x _ => hk.renderPixel_get scr (x := x) hpx hpy hy) hk]
  simp

theorem HasSize.renderBitmap_get (hk : k.HasSize w h) (scr : Vector Byte 256) (hpx : px < w) (hpy : py < h) (hh : 32 ≤ h) :
    (k.renderBitmap scr).pixels[py * w + px]? =
      if px < 64 ∧ h - 1 - py < 32 then some (pixelColour (pixelOf scr px (h - 1 - py))) else k.pixels[py * w + px]? := by
  rw [Sink.renderBitmap, HasSize.foldl_get _ (fun _ hk y _ => hk.renderRow scr y)
    (fun _ hk y hy => hk.renderRow_get scr hpx hpy ((List.mem_range.1 hy).trans_le hh)) hk]
  simp [and_comm]

end Sink

theorem State.setSink_frame (s : State) (k : Sink) : ChangesOnlySink s (s.setSink k) := rfl

theorem renderSizeWellFormed_iff (w h : Nat) : renderSizeWellFormed w h = true ↔ 64 ≤ w ∧ 32 ≤ h := by
  simp only [renderSizeWellFormed, Bool.and_eq_true, decide_eq_true_eq]

/-! The two answers of `render_chip8` (R243, R244). -/

theorem renderChip8_of_large {s : State} (hc : s.call = none) (hw : 64 ≤ s.sink.width) (hh : 32 ≤ s.sink.height) :
    renderChip8 s = .next (s.setSink (s.sink.renderBitmap s.screen)) := by
  rw [renderChip8, whenIdle_of_idle s _ hc, Sink.render, if_pos ((renderSizeWellFormed_iff _ _).2 ⟨hw, hh⟩), andThen_next]

theorem renderChip8_of_small {s : State} (hc : s.call = none) (h : s.sink.width < 64 ∨ s.sink.height < 32) :
    renderChip8 s = .refused .sinkTooSmall := by
  rw [renderChip8, whenIdle_of_idle s _ hc, Sink.render, if_neg (mt (renderSizeWellFormed_iff _ _).1 (by omega)), andThen_refused]

/-- Settles O60: both claims are `Sink.HasSize.renderBitmap_get`, at the flipped row of a bitmap pixel and at a pixel no bitmap row or
column reaches. -/
theorem renderFlipsVertically : Obligations.RenderFlipsVertically := by
  unfold Obligations.RenderFlipsVertically
  refine fun s hc hinv => ⟨fun hw hh => ?rendered, renderChip8_of_small hc⟩
  have hsize : s.sink.HasSize s.sink.width s.sink.height := ⟨rfl, rfl, hinv⟩
  obtain ⟨hwidth, hheight, -⟩ := hsize.renderBitmap s.screen
  refine ⟨_, renderChip8_of_large hc hw hh, s.setSink_frame _, hwidth, hheight, fun x hx y hy => ?bitmap, fun x hx y hy hout => ?others⟩
  case bitmap =>
    have hrow : s.sink.height - 1 - (s.sink.height - 1 - y) = y := by omega
    rw [State.setSink_sink, hsize.renderBitmap_get s.screen (hx.trans_le hw) (by omega) hh, hrow, if_pos ⟨hx, hy⟩]
    rfl
  case others =>
    rw [State.setSink_sink, hsize.renderBitmap_get s.screen hx hy hh, if_neg (by omega)]

end Sys2Proof.Machine
end

section
/-! Keys and timers: the key a register names, the lowest release edge, and the timer moves (46_keys_timers R261 to R266; D21). -/

namespace Sys2Proof.Machine

variable {s : State} {x : RegNum} {k : Fin 16}

/-! The branches of `Ex9E` and `ExA1`, the check of the register value first (R261, R262). -/

theorem isKeyNumber_iff (b : Byte) : isKeyNumber b = true ↔ b.toNat ≤ 15 := decide_eq_true_iff

theorem State.keyDown_keyOfByte {b : Byte} (h : b.toNat = k.val) : s.keyDown (keyOfByte b) = s.keys[k] := by
  have hkey : (keyOfByte b).toNat = k.val := by
    rw [keyOfByte, BitVec.toNat_setWidth, h]
    exact Nat.mod_eq_of_lt k.isLt
  simp only [State.keyDown, hkey, Fin.getElem_fin]

theorem exec_skp_of_key (h : (s.reg x).toNat = k.val) : exec (.skp x) s = .next (s.skipIf s.keys[k]) := by
  rw [← State.keyDown_keyOfByte h]
  exact if_pos ((isKeyNumber_iff _).2 (by omega))

theorem exec_sknp_of_key (h : (s.reg x).toNat = k.val) : exec (.sknp x) s = .next (s.skipIf !s.keys[k]) := by
  rw [← State.keyDown_keyOfByte h]
  exact if_pos ((isKeyNumber_iff _).2 (by omega))

theorem exec_skp_of_unknown (h : 15 < (s.reg x).toNat) : exec (.skp x) s = .next (s.raise .unknownKey) :=
  if_neg (mt (isKeyNumber_iff _).1 h.not_ge)

theorem exec_sknp_of_unknown (h : 15 < (s.reg x).toNat) : exec (.sknp x) s = .next (s.raise .unknownKey) :=
  if_neg (mt (isKeyNumber_iff _).1 h.not_ge)

/-- A skip on a condition that does not hold, as the rules write it. -/
theorem State.toNat_pc_skipIf_not (s : State) (c : Bool) :
    (s.skipIf !c).pc.toNat = (if c then s.pc.toNat else s.pc.toNat + 2) % 65536 := by
  cases c with
  | true => exact s.toNat_pc_skipIf false
  | false => exact s.toNat_pc_skipIf true

/-! The release edge `Fx0A` waits for (R264). -/

theorem State.released_ofFin (s : State) (k : Fin 16) :
    s.released (.ofFin k) = true ↔ s.lastKeys[k] = true ∧ s.keys[k] = false := by
  simp [State.released, State.lastKeyDown, State.keyDown]

/-- The key with a release edge that no lower key shows is the one the scan finds (D21). -/
theorem State.releasedKey_eq_some {k : BitVec 4} (hk : s.released k = true) (hlow : ∀ j < k, ¬ s.released j = true) :
    s.releasedKey = some k := by
  cases hfound : s.releasedKey with
  | none => exact absurd hk (by simp [s.releasedKey_eq_none.1 hfound k])
  | some m =>
    have hle : ¬ m < k := fun h => hlow m h (s.released_of_releasedKey m hfound)
    have hge : ¬ k < m := fun h => absurd hk (by simp [s.releasedKey_lowest m hfound k h])
    rw [BitVec.le_antisymm (BitVec.not_lt.1 hge) (BitVec.not_lt.1 hle)]

/-! The branches of `Fx0A`. -/

theorem exec_ldVxK_of_released {k : BitVec 4} (h : s.releasedKey = some k) :
    exec (.ldVxK x) s = .next (s.setReg x (k.setWidth 8)) := by
  simp only [exec, execLdVxK, h]

theorem exec_ldVxK_of_none (h : s.releasedKey = none) : exec (.ldVxK x) s = .next s.rewindPc := by
  simp only [exec, execLdVxK, h]

theorem State.toNat_pc_rewindPc (s : State) : s.rewindPc.pc.toNat = (s.pc.toNat + 65534) % 65536 := by
  rw [State.rewindPc_pc, BitVec.toNat_sub, Nat.add_comm]
  rfl

/-- Settles O47: the scan finds the lowest release edge (`State.releasedKey_eq_some`) or none (`State.releasedKey_eq_none`), and each
answer is one branch of `Fx0A`. -/
theorem keyWaitOnRelease : Obligations.KeyWaitOnRelease := by
  unfold Obligations.KeyWaitOnRelease
  refine fun s x => ⟨fun k hlast hup hlow => ?found, fun hnone => ?rewinds⟩
  case found =>
    have hkey : s.releasedKey = some (.ofFin k) :=
      State.releasedKey_eq_some ((s.released_ofFin k).2 ⟨hlast, hup⟩)
        fun j hj => mt (s.released_ofFin j.toFin).1 (hlow j.toFin hj)
    refine ⟨_, exec_ldVxK_of_released hkey, ?number, fun r => s.reg_setReg_of_ne _, rfl⟩
    case number =>
      rw [State.reg_setReg_same]
      exact BitVec.toNat_setWidth_of_le (by decide)
  case rewinds =>
    have hkey : s.releasedKey = none :=
      s.releasedKey_eq_none.2 fun j => Bool.eq_false_iff.2 (mt (s.released_ofFin j.toFin).1 (hnone j.toFin))
    exact ⟨_, exec_ldVxK_of_none hkey, s.toNat_pc_rewindPc, rfl⟩

/-- Settles O46, branch by branch; both skips depend on the named key's own bit (`State.toNat_pc_skipIf`,
`State.toNat_pc_skipIf_not`). -/
theorem skipsOnKeys : Obligations.SkipsOnKeys := by
  unfold Obligations.SkipsOnKeys
  refine fun s x => ⟨fun k hkey => ⟨?down, ?up⟩, fun hunknown =>
    ⟨⟨_, exec_skp_of_unknown hunknown, rfl⟩, ⟨_, exec_sknp_of_unknown hunknown, rfl⟩⟩⟩
  case down => exact ⟨_, exec_skp_of_key hkey, s.toNat_pc_skipIf _, s.skipIf_frame _⟩
  case up => exact ⟨_, exec_sknp_of_key hkey, s.toNat_pc_skipIf_not _, s.skipIf_frame _⟩

/-! Timers (R263, R265, R266) and the sound (R152, R305). -/

theorem State.soundOn_iff (s : State) : s.soundOn = true ↔ s.st ≠ 0 := by
  rw [State.soundOn, decide_eq_true_iff, Nat.pos_iff_ne_zero, ne_eq, ne_eq, BitVec.toNat_eq]
  rfl

/-- Settles O48: each of the three is one write (`setReg`, `setDt`, `setSt`), and the sound is `State.soundOn_iff`. -/
theorem timerMoves : Obligations.TimerMoves := by
  unfold Obligations.TimerMoves
  exact fun s x => ⟨⟨_, rfl, fun r => s.reg_setReg x r s.dt, rfl⟩, ⟨_, rfl, s.setDt_dt _, rfl⟩,
    ⟨_, rfl, s.setSt_st _, rfl, (s.setSt (s.reg x)).soundOn_iff⟩⟩

end Sys2Proof.Machine
end

section
/-! Every instruction, slot and step answers a next state; a fault leaves the rest of the state as it was (60_exceptions R284, R285,
R293). -/

namespace Sys2Proof.Machine

/-- An outcome of an instruction whose checks all precede its writes (D35): a next state with the fault field as before, or a fault
raised in the state the instruction began in. -/
inductive ChecksFirst (s : State) : Host.Outcome State Fault Refusal → Prop where
  | writes {t : State} (h : t.fault = s.fault) : ChecksFirst s (.next t)
  | raises (f : Fault) : ChecksFirst s (.next (s.raise f))

theorem State.skipIf_fault (s : State) (c : Bool) : (s.skipIf c).fault = s.fault := by rw [State.skipIf_frame]

theorem State.loadRange_fault (s : State) (a n : Nat) : (s.loadRange a n).fault = s.fault := by rw [State.loadRange_frame]

theorem storeAtI_checksFirst (bs : List Byte) (s : State) : ChecksFirst s (.next (storeAtI bs s)) := by
  rcases storeAtI_cases bs s with ⟨-, e⟩ | ⟨-, e⟩ <;> rw [e]
  · exact .writes rfl
  · exact .raises _

/-- A check, the fault it raises, and the writes it guards. -/
theorem ChecksFirst.checked {s t : State} {p : Prop} [Decidable p] {f : Fault} (h : t.fault = s.fault) :
    ChecksFirst s (if p then .next t else .next (s.raise f)) := by
  split
  · exact .writes h
  · exact .raises f

/-- Every instruction answers a next state, and makes its checks before its first write (R284, D35). -/
theorem exec_checksFirst (i : Instr) (s : State) : ChecksFirst s (exec i s) := by
  cases i with
  | ret =>
    simp only [exec, execRet]
    split
    · exact .writes rfl
    · exact .raises _
  | call nnn =>
    simp only [exec, execCall]
    split
    · exact .checked rfl
    · exact .raises _
  | drw x y n =>
    simp only [exec, execDrw]
    split
    · exact .raises _
    · exact .checked rfl
  | ldVxK x =>
    simp only [exec, execLdVxK]
    split <;> exact .writes rfl
  | skp x => exact .checked (s.skipIf_fault _)
  | sknp x => exact .checked (s.skipIf_fault _)
  | loadRegs x => exact .checked (s.loadRange_fault _ _)
  | ldB x => exact storeAtI_checksFirst _ s
  | storeRegs x => exact storeAtI_checksFirst _ s
  | seImm | sneImm | seReg | sneReg => exact .writes (s.skipIf_fault _)
  | _ => exact .writes rfl

theorem ChecksFirst.exists_next {s : State} {o : Host.Outcome State Fault Refusal} (h : ChecksFirst s o) : ∃ t, o = .next t := by
  cases h with
  | writes _ => exact ⟨_, rfl⟩
  | raises f => exact ⟨_, rfl⟩

/-- Checks that precede every write leave nothing behind but the fault, where none was before (R285). -/
theorem ChecksFirst.eq_raise {s t : State} {f : Fault} (h : ChecksFirst s (.next t)) (hs : s.fault = none)
    (hf : t.fault = some f) : t = s.raise f := by
  cases h with
  | writes hkeep => simp [hkeep, hs] at hf
  | raises g => exact congrArg s.raise (Option.some.inj hf)

theorem exists_exec_eq_next (i : Instr) (s : State) : ∃ t, exec i s = .next t := (exec_checksFirst i s).exists_next

theorem exists_slot_eq_next (q : Rat) (s : State) : ∃ t, slot q s = .next t := by
  by_cases hlegal : fetchLegal s.pc.toNat = true
  · rw [slot_of_legal_pc hlegal]
    cases hd : decodeWord s.fetchWord with
    | none => exact ⟨_, runWord_of_unmatched hd _⟩
    | some i =>
      obtain ⟨u, hu⟩ := exists_exec_eq_next i (s.timerTick q).advancePc
      exact ⟨finishSlot u, by rw [runWord_of_decodes hd, hu, andThen_next]⟩
  · exact ⟨_, slot_of_illegal_pc hlegal⟩

theorem exists_step_eq_next (s : State) : ∃ t, step s = .next t := by
  cases hc : s.call with
  | none => exact ⟨_, step_of_idle hc⟩
  | some c =>
    cases hf : s.fault with
    | none =>
      obtain ⟨u, hu⟩ := exists_slot_eq_next c.tdpi s
      exact ⟨_, step_of_slot hc hf hu⟩
    | some f => exact ⟨s.setCall none, by simp [step, hc, hf]⟩

/-- Settles O15 (`exists_exec_eq_next`, `exists_step_eq_next`). -/
theorem everyStepAnswersNext : Obligations.EveryStepAnswersNext := by
  unfold Obligations.EveryStepAnswersNext
  exact ⟨exists_exec_eq_next, exists_step_eq_next⟩

/-- Settles O10: the fetch check and the decoder raise in the state they meet (`slot_cases`), and so does an instruction
(`exec_checksFirst`), after which the key latch does not run. -/
theorem faultLeavesTheRest : Obligations.FaultLeavesTheRest := by
  unfold Obligations.FaultLeavesTheRest
  intro s t q f hs h hf
  rcases slot_cases q s t h with ⟨hillegal, rfl⟩ | ⟨hlegal, -, rfl⟩ | ⟨hlegal, i, u, -, hu, rfl⟩
  case inl => exact ⟨by rw [← hf]; rfl, by rw [hillegal]; rfl⟩
  case inr.inl => exact ⟨by rw [← hf]; rfl, by rw [hlegal]; rfl⟩
  case inr.inr =>
    have huf : u.fault = some f := by rwa [finishSlot_frame] at hf
    have hfirst : ChecksFirst (s.timerTick q).advancePc (.next u) := hu ▸ exec_checksFirst i _
    rw [hfirst.eq_raise hs huf, hlegal]
    exact ⟨rfl, rfl⟩

end Sys2Proof.Machine
end

section
/-! What the driver is refused (41_vm_step R151, 70_reset_and_hazards R325). -/

namespace Sys2Proof.Machine

/-- No driver operation runs during a `step` call (R325). -/
theorem perform_of_busy {s : State} (hc : s.call ≠ none) (op : DriverOp) : perform op s = .refused .operationInProgress := by
  cases op with
  | advance sample =>
    have hrefused : advance sample s = .refused .operationInProgress := whenIdle_of_busy s _ hc
    rw [perform, hrefused, andThen_refused]
  | _ => exact whenIdle_of_busy s _ hc

/-- Settles O20 (`create_of_too_long`, `perform_of_busy`). -/
theorem refusedOperations : Obligations.RefusedOperations := by
  unfold Obligations.RefusedOperations
  exact ⟨fun _ _ hc hlong => create_of_too_long hc hlong, fun _ op hc => perform_of_busy hc op⟩

end Sys2Proof.Machine
end
